-- ==== Sys2Proof/Word.lean ====
section
/-! DEFINITION. The widths of the block (00_scope.md R7): 7-bit device addresses, 8-bit bytes on the bus, 16-bit
results, 32-bit command and response words. -/

namespace Sys2Proof

/-- Every byte on the bus, register index and register value: 8 bits (R7). -/
abbrev Byte := BitVec 8

/-- A device address: 7 bits (R7). -/
abbrev Addr := BitVec 7

/-- A host command word, format CMD32 (R96). -/
abbrev CmdWord := BitVec 32

/-- A response word, format RSP32 (R100). -/
abbrev RspWord := BitVec 32

end Sys2Proof
end

