-- ==== Sys2Proof/Syntax.lean ====
section
/-! DEFINITION. The instructions (one constructor per row of spec/opcode_table.json), the assembler's lines, and the
alphabets the rest of the model speaks in: control operations, bus events, primitive invocations, agents. -/

namespace Sys2Proof

/-- The instructions: nine CMD32 commands (30_encoding.md R97), five CTRL8 engine operations (R92, 40_bus_engine.md)
and the CTRL8 write that only sets EN (R93). The operand of an engine operation is the ENSET bit of its CTRL word,
which its table mask leaves free. -/
inductive Instr where
  | enable
  | start
  | stop
  | write (b : Byte)
  | rdAck
  | rdNack
  | wreg (a : Addr) (r v : Byte)
  | rdw (a : Addr) (r : Byte)
  | probe (a : Addr)
  | eStart (enset : Bool)
  | eStop (enset : Bool)
  | eTx (enset : Bool)
  | eRxAck (enset : Bool)
  | eRxNack (enset : Bool)
  | ctlEnset
deriving DecidableEq, Repr, Inhabited

/-- The operation codes a CTRL write can carry (R92). The two reserved codes are not among them (U1). -/
inductive CtlOp where
  | none
  | start
  | stop
  | tx
  | rxAck
  | rxNack
deriving DecidableEq, Repr, Inhabited

/-- The read policy of a reception: ACK asks for more bytes, NACK concludes the transfer (R66). -/
inductive Policy where
  | ack
  | nack
deriving DecidableEq, Repr, Inhabited

/-- The bus events of the wire trace (20_memory.md R66). -/
inductive WireEvent where
  | s
  | sr
  | p
  | tx (b : Byte) (a : Bool)
  | rx (b : Byte) (p : Policy)
deriving DecidableEq, Repr, Inhabited

/-- The primitive invocations of the primitive trace (10_state.md R41, 41_transport_primitives.md R152). -/
inductive PrimCall where
  | start
  | stop
  | writeByte (b : Byte)
  | readByteAck
  | readByteNack
deriving DecidableEq, Repr, Inhabited

/-- Whose step it is (00_scope.md R9). -/
inductive Agent where
  | host
  | seq
  | eng
deriving DecidableEq, Repr, Inhabited

/-- A line of the assembler (30_encoding.md R104, R105), its numbers not yet range checked. `waddr a d` is the
pseudo-instruction WADDR, `d` true for the read direction. -/
inductive AsmLine where
  | enable
  | start
  | stop
  | write (b : Nat)
  | rdAck
  | rdNack
  | wreg (a r v : Nat)
  | rdw (a r : Nat)
  | probe (a : Nat)
  | rstart
  | waddr (a : Nat) (d : Bool)
deriving DecidableEq, Repr, Inhabited

end Sys2Proof
end

