-- ==== Sys2Proof/Config.lean ====
section
/-! DEFINITION. What the spec leaves open: the two budgets, the schedule, the environment, the settling delay. Each is an
opaque constant with no body, so no proof can lean on its value. -/

namespace Sys2Proof

/-- One less than BUDGET_START, so that the budget ranges over 1..65535 exactly (00_scope.md R8, U10, log 3). -/
opaque Config.budgetStartLessOne : Fin 65535

/-- One less than BUDGET_WRITE (00_scope.md R8, U10, log 3). -/
opaque Config.budgetWriteLessOne : Fin 65535

/-- Which agent steps at a tick once the scripted schedule has run out (00_scope.md R9, log 1). -/
opaque Config.agentAt : Nat → Agent

/-- Env's `draw ready`: from the wire trace, and from the tick, since an Env may become ready in time (20_memory.md R70,
log 2). -/
opaque Config.envReady : List WireEvent → Nat → Bool

/-- Env's `draw ack`, from the wire trace and the byte (20_memory.md R70, 40_bus_engine.md R123, log 2). -/
opaque Config.envAck : List WireEvent → Byte → Bool

/-- Env's `draw byte`, from the wire trace (20_memory.md R70, log 2). -/
opaque Config.envByte : List WireEvent → Byte

/-- The premise that the settling delay of at least 100 ms has elapsed before the first WREG
(70_reset_and_hazards.md R226, log 14). The block has no time; no rule of it depends on this. -/
opaque Config.SettleElapsed : Prop

/-- BUDGET_START as the 16-bit value CNT is loaded with. -/
def Config.budgetStart : BitVec 16 := BitVec.ofNat 16 (Config.budgetStartLessOne.val + 1)

/-- BUDGET_WRITE as the 16-bit value CNT is loaded with. -/
def Config.budgetWrite : BitVec 16 := BitVec.ofNat 16 (Config.budgetWriteLessOne.val + 1)

end Sys2Proof
end

