-- ==== Sys2Proof/WellFormed.lean ====
section
/-! DEFINITION. Which terms stand for something. An instruction's operands carry their widths in their types (R7), so
every `Instr` is well formed; the numbers of an assembler line do not, and are range checked (30_encoding.md R104). -/

namespace Sys2Proof

/-- A device address operand: 0..127 (R104). -/
def addrOk (a : Nat) : Bool := decide (a < 128)

/-- A register index, register value or byte operand: 0..255 (R104). -/
def byteOk (b : Nat) : Bool := decide (b < 256)

/-- An assembler line is well formed iff every number is in its range (R104). -/
def AsmLine.wf : AsmLine → Bool
  | .enable | .start | .stop | .rdAck | .rdNack | .rstart => true
  | .write b => byteOk b
  | .wreg a r v => addrOk a && byteOk r && byteOk v
  | .rdw a r => addrOk a && byteOk r
  | .probe a => addrOk a
  | .waddr a _ => addrOk a

/-- Every instruction is well formed: the field widths of R96 and R91 are its operands' types. -/
def Instr.wf : Instr → Bool
  | .enable | .start | .stop | .rdAck | .rdNack | .ctlEnset => true
  | .write _ | .probe _ | .rdw _ _ | .wreg _ _ _ => true
  | .eStart _ | .eStop _ | .eTx _ | .eRxAck _ | .eRxNack _ => true

end Sys2Proof
end

