-- ==== Sys2Proof/Decode.lean ====
section
/-! DEFINITION. Decoding and encoding: the 32-bit command words of the host port (30_encoding.md R96 to R98, R102) and the
8-bit words of the control register (R91, R92), the opcode table, and the assembler's words (R104, R105). -/

namespace Sys2Proof

/-! ### The words of the two interfaces -/

/-- A word of either interface: a CMD32 word at the host port or a CTRL8 word at the control register. -/
inductive IfaceWord where
  | cmd (w : CmdWord)
  | ctl (w : Byte)
deriving DecidableEq, Repr, Inhabited

/-- Why a word is no instruction. The first five are the ways a command word is not legal (R102); the last three concern
CTRL words (R91, R92, R93). -/
inductive DecodeError where
  /-- `OPC` is `0x0`, `0x7` or `0xB` to `0xF`. -/
  | reservedOpcode
  /-- A bit of 27:23 is set. -/
  | nonzeroZeroField
  /-- The command does not use `ADDR` and it is not zero. -/
  | nonzeroAddr
  /-- The command does not use `REG` and it is not zero. -/
  | nonzeroReg
  /-- The command does not use `VAL` and it is not zero. -/
  | nonzeroVal
  /-- A bit of CTRL 6:3 is set. -/
  | reservedCtrlBits
  /-- `CTRL.OP` is `0b110` or `0b111` (U1). -/
  | reservedCtrlOp
  /-- The CTRL word `0x00`: neither ENSET nor an operation; no row of the table. -/
  | noRequest
deriving DecidableEq, Repr, Inhabited

/-- What the decoder answers. -/
inductive Decoded where
  | instr (i : Instr)
  | bad (e : DecodeError)
deriving DecidableEq, Repr, Inhabited

/-- The instruction, if there is one. -/
def Decoded.toOption : Decoded → Option Instr
  | .instr i => some i
  | .bad _ => none

/-! ### Fields of a command word (R96) -/

/-- `OPC`, bits 31:28. -/
def opcOf (w : CmdWord) : BitVec 4 := w.extractLsb' 28 4
/-- The field that must be zero, bits 27:23. -/
def zeroOf (w : CmdWord) : BitVec 5 := w.extractLsb' 23 5
/-- `ADDR`, bits 22:16. -/
def addrOf (w : CmdWord) : Addr := w.extractLsb' 16 7
/-- `REG`, bits 15:8. -/
def regOf (w : CmdWord) : Byte := w.extractLsb' 8 8
/-- `VAL`, bits 7:0. -/
def valOf (w : CmdWord) : Byte := w.extractLsb' 0 8

/-- A command word from its fields (R96). -/
def cmdWord (opc : BitVec 4) (a : Addr) (r v : Byte) : CmdWord := opc ++ 0#5 ++ a ++ r ++ v

/-! ### Decoding command words (R97, R102) -/

/-- The instruction, provided the fields the command does not use are zero (R96, R102). -/
def unused (useA useR useV : Bool) (a : Addr) (r v : Byte) (i : Instr) : Decoded :=
  if !useA && a != 0 then .bad .nonzeroAddr
  else if !useR && r != 0 then .bad .nonzeroReg
  else if !useV && v != 0 then .bad .nonzeroVal
  else .instr i

/-- Opcode map of R97 on the fields of a word whose bits 27:23 are zero. -/
def decodeFields (opc : BitVec 4) (a : Addr) (r v : Byte) : Decoded :=
  if opc = 0x1#4 then unused false false false a r v .enable
  else if opc = 0x2#4 then unused false false false a r v .start
  else if opc = 0x3#4 then unused false false false a r v .stop
  else if opc = 0x4#4 then unused false false true a r v (.write v)
  else if opc = 0x5#4 then unused false false false a r v .rdAck
  else if opc = 0x6#4 then unused false false false a r v .rdNack
  else if opc = 0x8#4 then unused true true true a r v (.wreg a r v)
  else if opc = 0x9#4 then unused true true false a r v (.rdw a r)
  else if opc = 0xA#4 then unused true false false a r v (.probe a)
  else .bad .reservedOpcode

/-- Decode a command word (R97, R102). Total. -/
def decodeCmd (w : CmdWord) : Decoded :=
  if zeroOf w ≠ 0 then .bad .nonzeroZeroField
  else decodeFields (opcOf w) (addrOf w) (regOf w) (valOf w)

/-- A command word is legal iff it is one of the nine commands (R102). -/
def legalCmd (w : CmdWord) : Bool := (decodeCmd w).toOption.isSome

/-! ### Control words (R91, R92) -/

/-- The operation code of R92. -/
def CtlOp.code : CtlOp → BitVec 3
  | .none => 0b000#3
  | .start => 0b001#3
  | .stop => 0b010#3
  | .tx => 0b011#3
  | .rxAck => 0b100#3
  | .rxNack => 0b101#3

/-- A CTRL word from its fields (R91). -/
def ctrlWord (enset : Bool) (op : CtlOp) : Byte := BitVec.ofBool enset ++ 0#4 ++ op.code

/-- `ENSET`, bit 7. -/
def ensetOf (w : Byte) : Bool := w.getLsbD 7
/-- The reserved field, bits 6:3. -/
def ctrlZeroOf (w : Byte) : BitVec 4 := w.extractLsb' 3 4
/-- `OP`, bits 2:0. -/
def ctlCodeOf (w : Byte) : BitVec 3 := w.extractLsb' 0 3

/-- Decode a CTRL word (R91, R92). Total. -/
def decodeCtl (w : Byte) : Decoded :=
  if ctrlZeroOf w ≠ 0 then .bad .reservedCtrlBits
  else if ctlCodeOf w = 0b000#3 then (if ensetOf w then .instr .ctlEnset else .bad .noRequest)
  else if ctlCodeOf w = 0b001#3 then .instr (.eStart (ensetOf w))
  else if ctlCodeOf w = 0b010#3 then .instr (.eStop (ensetOf w))
  else if ctlCodeOf w = 0b011#3 then .instr (.eTx (ensetOf w))
  else if ctlCodeOf w = 0b100#3 then .instr (.eRxAck (ensetOf w))
  else if ctlCodeOf w = 0b101#3 then .instr (.eRxNack (ensetOf w))
  else .bad .reservedCtrlOp

/-! ### Decoding and encoding either word -/

/-- Decode a word of either interface. -/
def decode : IfaceWord → Decoded
  | .cmd w => decodeCmd w
  | .ctl w => decodeCtl w

/-- The word of an instruction (R97, R92). -/
def encode : Instr → IfaceWord
  | .enable => .cmd (cmdWord 0x1#4 0 0 0)
  | .start => .cmd (cmdWord 0x2#4 0 0 0)
  | .stop => .cmd (cmdWord 0x3#4 0 0 0)
  | .write b => .cmd (cmdWord 0x4#4 0 0 b)
  | .rdAck => .cmd (cmdWord 0x5#4 0 0 0)
  | .rdNack => .cmd (cmdWord 0x6#4 0 0 0)
  | .wreg a r v => .cmd (cmdWord 0x8#4 a r v)
  | .rdw a r => .cmd (cmdWord 0x9#4 a r 0)
  | .probe a => .cmd (cmdWord 0xA#4 a 0 0)
  | .eStart e => .ctl (ctrlWord e .start)
  | .eStop e => .ctl (ctrlWord e .stop)
  | .eTx e => .ctl (ctrlWord e .tx)
  | .eRxAck e => .ctl (ctrlWord e .rxAck)
  | .eRxNack e => .ctl (ctrlWord e .rxNack)
  | .ctlEnset => .ctl (ctrlWord true .none)

/-- `ENSET` and `OP` of the CTRL word of an instruction (R91, R92); `none` for a command. -/
def Instr.ctlFields : Instr → Option (Bool × CtlOp)
  | .eStart e => some (e, .start)
  | .eStop e => some (e, .stop)
  | .eTx e => some (e, .tx)
  | .eRxAck e => some (e, .rxAck)
  | .eRxNack e => some (e, .rxNack)
  | .ctlEnset => some (true, .none)
  | .enable | .start | .stop | .write _ | .rdAck | .rdNack | .wreg _ _ _ | .rdw _ _ | .probe _ => none

/-! ### The opcode table as data -/

/-- The mnemonic of an instruction's row of spec/opcode_table.json. -/
def Instr.mnemonic : Instr → String
  | .enable => "ENABLE"
  | .start => "START"
  | .stop => "STOP"
  | .write _ => "WRITE"
  | .rdAck => "RDACK"
  | .rdNack => "RDNACK"
  | .wreg _ _ _ => "WREG"
  | .rdw _ _ => "RDW"
  | .probe _ => "PROBE"
  | .eStart _ => "E_START"
  | .eStop _ => "E_STOP"
  | .eTx _ => "E_TX"
  | .eRxAck _ => "E_RX_ACK"
  | .eRxNack _ => "E_RX_NACK"
  | .ctlEnset => "CTL_ENSET"

/-- `match` and `mask` of a CMD32 instruction's row (R97); `none` for a CTRL8 instruction. -/
def Instr.cmdPattern : Instr → Option (CmdWord × CmdWord)
  | .enable => some (0x10000000#32, 0xFFFFFFFF#32)
  | .start => some (0x20000000#32, 0xFFFFFFFF#32)
  | .stop => some (0x30000000#32, 0xFFFFFFFF#32)
  | .write _ => some (0x40000000#32, 0xFFFFFF00#32)
  | .rdAck => some (0x50000000#32, 0xFFFFFFFF#32)
  | .rdNack => some (0x60000000#32, 0xFFFFFFFF#32)
  | .wreg _ _ _ => some (0x80000000#32, 0xFF800000#32)
  | .rdw _ _ => some (0x90000000#32, 0xFF8000FF#32)
  | .probe _ => some (0xA0000000#32, 0xFF80FFFF#32)
  | .eStart _ | .eStop _ | .eTx _ | .eRxAck _ | .eRxNack _ | .ctlEnset => none

/-- `match` and `mask` of a CTRL8 instruction's row of the opcode table; `none` for a command. -/
def Instr.ctlPattern : Instr → Option (Byte × Byte)
  | .eStart _ => some (0x01#8, 0x7F#8)
  | .eStop _ => some (0x02#8, 0x7F#8)
  | .eTx _ => some (0x03#8, 0x7F#8)
  | .eRxAck _ => some (0x04#8, 0x7F#8)
  | .eRxNack _ => some (0x05#8, 0x7F#8)
  | .ctlEnset => some (0x80#8, 0xFF#8)
  | .enable | .start | .stop | .write _ | .rdAck | .rdNack | .wreg _ _ _ | .rdw _ _ | .probe _ => none

/-- The word of a row of `nbits` bits whose bits are `w`, at the interface of its format: 32 bits at the host port, 8 bits
at the control register. One word each, so no byte order arises (R103). -/
def tableWord (nbits w : Nat) : Option IfaceWord :=
  if nbits = 32 ∧ w < 2 ^ 32 then some (.cmd (BitVec.ofNat 32 w))
  else if nbits = 8 ∧ w < 2 ^ 8 then some (.ctl (BitVec.ofNat 8 w))
  else none

/-- The instruction this decoder reads from a table word. -/
def decodeTableWord (nbits w : Nat) : Option Instr :=
  match tableWord nbits w with
  | some x => (decode x).toOption
  | none => none

end Sys2Proof
end

