-- ==== Sys2Proof/Machine/State.lean ====
section
/-! DEFINITION. The state of the block as plain data, in the four groups of 10_state.md (engine, sequencer, latches, host
port), with the histories of 00_scope.md R11, what stands outside the block (schedule, host, environment), the
parameters, the reasons a step can stop, and the state after reset (R40). -/

namespace Sys2Proof.Machine

/-! ### Bus engine and line drivers (L0) -/

/-- `PEND`: the operation requested and not yet performed; STOP is never held here (10_state.md R21). -/
inductive Pend where
  | none
  | start
  | tx
  | rxAck
  | rxNack
deriving DecidableEq, Repr, Inhabited

/-- The bus engine (10_state.md R20 to R28). `CTRL` is write-only and `STAT` is a view of `done` and `acked`. -/
structure Engine where
  /-- `EN` (R20). -/
  en : Bool
  /-- `PEND` (R21). -/
  pend : Pend
  /-- `STOPREQ` (R22). -/
  stopReq : Bool
  /-- `OPEN` (R23). -/
  isOpen : Bool
  /-- `DONE`, `STAT[7]` (R25). -/
  done : Bool
  /-- `ACKED`, `STAT[6]` (R26). -/
  acked : Bool
  /-- `DATA` (R27). -/
  data : Byte
  /-- `SDA_OUT`: true is released (R28). -/
  sdaOut : Bool
  /-- `SCL_OUT`: true is released (R28). -/
  sclOut : Bool
deriving DecidableEq, Repr, Inhabited

/-! ### Sequencer (L1, L2) and latches -/

/-- `PHASE`: the per-primitive state machine (10_state.md R30). -/
inductive Phase where
  | idle
  | issued
  | completed
  | timedOut
deriving DecidableEq, Repr, Inhabited

/-- `PRIM`: the primitive in execution (10_state.md R32). -/
inductive Prim where
  | start
  | stop
  | write
  | rdAck
  | rdNack
  | enable
deriving DecidableEq, Repr, Inhabited

/-- An outcome (30_encoding.md R99). -/
inductive StepOutcome where
  | ok
  | timeout
  | nack
  | notRun
deriving DecidableEq, Repr, Inhabited

/-- The sequencer's state and the operand and result latches (10_state.md R30 to R35). -/
structure Seqr where
  /-- `PHASE` (R30). -/
  phase : Phase
  /-- `CNT` (R31). -/
  cnt : BitVec 16
  /-- `PRIM` (R32). -/
  prim : Prim
  /-- `PBYTE` (R32). -/
  pbyte : Byte
  /-- `WSUB` (R33). -/
  wsub : Bool
  /-- `OPC` (R34). -/
  opc : BitVec 4
  /-- `ADDR` (R34). -/
  addr : Addr
  /-- `REG` (R34). -/
  reg : Byte
  /-- `VAL` (R34). -/
  val : Byte
  /-- `HI` (R34). -/
  hi : Byte
  /-- `LO` (R34). -/
  lo : Byte
  /-- `O0` (R34). -/
  o0 : StepOutcome
  /-- `O1` (R34). -/
  o1 : StepOutcome
  /-- `O2` (R34). -/
  o2 : StepOutcome
  /-- `O3` (R34). -/
  o3 : StepOutcome
  /-- `O4` (R34). -/
  o4 : StepOutcome
  /-- `STEP` (R35). -/
  stepIdx : BitVec 4
  /-- Whether the accepted word is a legal command, from accept to respond (41_transport_primitives.md R140, R144).
  DEDUCED, safe (log 16): 10_state.md does not list it. -/
  legal : Bool
deriving DecidableEq, Repr, Inhabited

/-! ### Host command port -/

/-- The host command port (10_state.md R36, R37). -/
structure Port where
  /-- `BUSY` (R36). -/
  busy : Bool
  /-- `RSP` (R37). -/
  rsp : RspWord
deriving DecidableEq, Repr, Inhabited

/-! ### Histories -/

/-- An access SEQ makes to the engine register interface (00_scope.md R11 (b), 41_transport_primitives.md R154). -/
inductive RegAccess where
  | ctrlWrite (w : Byte)
  | dataWrite (b : Byte)
  | statRead (v : Byte)
  | dataRead (v : Byte)
deriving DecidableEq, Repr, Inhabited

/-- The histories kept by the model (00_scope.md R11, 10_state.md R29, R41); no step of the block reads one. DESIGN CHOICE,
safe (log 15): what an entry of the register trace holds, and that responses are kept. -/
structure History where
  /-- `WIRE` (R29). -/
  wire : List WireEvent
  /-- `PRIMS` (R41). -/
  prims : List PrimCall
  /-- The register trace (R11 (b)). -/
  regs : List RegAccess
  /-- The responses delivered, oldest first (R11). -/
  rsps : List RspWord
  /-- The responses the host has taken, oldest first (R9). -/
  taken : List RspWord
deriving DecidableEq, Repr, Inhabited

/-! ### What stands outside the block -/

/-- What the host does next at the command port (00_scope.md R9, 70_reset_and_hazards.md R239). -/
inductive HostMove where
  /-- Present a command word. -/
  | command (w : CmdWord)
  /-- Take the response: read `RSP`. -/
  | takeResponse
  /-- Assert reset inside the run, which the model refuses (R222). -/
  | reset
deriving DecidableEq, Repr, Inhabited

/-- The 256 registers of the reference device as a canonical list: addresses strictly rising, no entry equal to what an
unlisted register reads as (Machine/Memory.lean). -/
abbrev Memory := List Host.Cell

/-- The reference device's mode (20_memory.md R71). -/
inductive SlaveMode where
  | idle
  | expectIndex
  | addressedWrite
  | addressedRead
deriving DecidableEq, Repr, Inhabited

/-- The reference device `RefSlave(A, mem)` (20_memory.md R71). `awaitAddr`: an `S` or `Sr` has been seen and the next
transmitted byte is an address byte. -/
structure RefSlave where
  addr : Addr
  mem : Memory
  ptr : Byte
  mode : SlaveMode
  awaitAddr : Bool
deriving DecidableEq, Repr, Inhabited

/-- The schedule, the host and the environment as data (logs 1, 2, 6): parameters of the step relation in 10_state.md
R39, held here so that a run can be written down. -/
structure Inputs where
  /-- Whose step is being taken. -/
  turn : Agent
  /-- The agents to step next; when it is empty the schedule is a free value. -/
  sched : List Agent
  /-- How many steps have been taken: the free values' argument. -/
  tick : Nat
  /-- What the host does next. -/
  hostIn : List HostMove
  /-- Scripted answers to `draw ready`. -/
  readyIn : List Bool
  /-- Scripted answers to `draw ack`. -/
  ackIn : List Bool
  /-- Scripted answers to `draw byte`. -/
  byteIn : List Byte
  /-- The reference device, when it is the environment. -/
  device : Option RefSlave
deriving DecidableEq, Repr, Inhabited

/-- The parameters of 00_scope.md R8 that the rules use; never written. -/
structure Params where
  /-- `BUDGET_START`. -/
  budgetStart : BitVec 16
  /-- `BUDGET_WRITE`. -/
  budgetWrite : BitVec 16
deriving DecidableEq, Repr, Inhabited

/-! ### The state -/

structure State where
  eng : Engine
  seq : Seqr
  port : Port
  hist : History
  inp : Inputs
  par : Params
deriving DecidableEq, Repr, Inhabited

/-- Why the machine stops with a fault. -/
inductive Fault where
  /-- Raised by a HOST turn that reads `RSP` before any response was delivered (10_state.md R37: "a model refuses a
  read of it"; 93_implementation_defined.md U3: "fault"). Safe. -/
  | responseUnwritten
deriving DecidableEq, Repr, Inhabited

/-- Why the model gives a step no meaning. -/
inductive Refusal where
  /-- Raised by an arm of `exec` that has no meaning yet. Safe. -/
  | notModelled (mnemonic : String)
  /-- Raised by a HOST turn that asserts reset inside a run (70_reset_and_hazards.md R222: "refuses a reset inside a
  run"; 93_implementation_defined.md U6: "refuse"). Safe. -/
  | resetInsideRun
deriving DecidableEq, Repr, Inhabited

/-- What a step of this machine answers. -/
abbrev Answer := Host.Outcome State Fault Refusal

/-! ### Reset (10_state.md R40, 70_reset_and_hazards.md R220) -/

/-- The engine after reset. DESIGN CHOICE, unsafe (log 4): `DATA` has no reset value in R40; it is zero here. -/
def Engine.reset : Engine :=
  { en := false, pend := .none, stopReq := false, isOpen := false, done := false, acked := false, data := 0,
    sdaOut := true, sclOut := true }

/-- The sequencer after reset. DESIGN CHOICE, unsafe (log 4): `CNT`, `PRIM`, `PBYTE`, the latches and the outcome slots have
no reset value in R40; here they are zero, `PRIM` is START and the slots are NOT_RUN. -/
def Seqr.reset : Seqr :=
  { phase := .idle, cnt := 0, prim := .start, pbyte := 0, wsub := false, opc := 0, addr := 0, reg := 0, val := 0,
    hi := 0, lo := 0, o0 := .notRun, o1 := .notRun, o2 := .notRun, o3 := .notRun, o4 := .notRun, stepIdx := 0,
    legal := false }

/-- The port after reset. DESIGN CHOICE, unsafe (log 4): `RSP` has no reset value in R40; it is zero here, and a host read
of it before the first response is a fault. -/
def Port.reset : Port := { busy := false, rsp := 0 }

/-- Nothing has happened yet (R40). -/
def History.reset : History := { wire := [], prims := [], regs := [], rsps := [], taken := [] }

/-- Nothing is scripted: the schedule and the environment are free values, the host presents nothing. DESIGN CHOICE
(logs 1, 2, 19). -/
def Inputs.reset : Inputs :=
  { turn := .host, sched := [], tick := 0, hostIn := [], readyIn := [], ackIn := [], byteIn := [],
    device := none }

/-- The parameters of this machine: the opaque budgets (log 3). -/
def Params.reset : Params := { budgetStart := Config.budgetStart, budgetWrite := Config.budgetWrite }

/-- The machine right after reset (10_state.md R40). -/
def State.reset : State :=
  { eng := Engine.reset, seq := Seqr.reset, port := Port.reset, hist := History.reset, inp := Inputs.reset,
    par := Params.reset }

end Sys2Proof.Machine
end

