-- ==== Sys2Proof/Machine/Operands.lean ====
section
/-! DEFINITION. Operand forms: the address byte (00_scope.md R14), the 16-bit result (20_memory.md R64), and the sequence
tables of the commands (41_transport_primitives.md R141, 42_register_access.md R170). -/

namespace Sys2Proof.Machine

/-- The direction bit of a write phase (R14). -/
def dirWrite : BitVec 1 := 0
/-- The direction bit of a read phase (R14). -/
def dirRead : BitVec 1 := 1

/-- `AddrByte(a, d) = (zext_8(a) << 1) | zext_8(d)` (R14, R98). -/
def addrByte (a : Addr) (d : BitVec 1) : Byte := (a.setWidth 8 <<< 1) ||| d.setWidth 8

/-- `HI ++ LO`: big-endian, the first byte received is the high byte (R64). -/
def wordOf (hi lo : Byte) : BitVec 16 := hi ++ lo

/-- `toSigned16` (00_scope.md R12): the two's-complement reading of a 16-bit word. -/
def toSigned16 (w : BitVec 16) : Int := w.toInt

/-- A primitive with its operand: what a step of a sequence issues. -/
inductive PrimOp where
  | enable
  | start
  | stop
  | write (b : Byte)
  | rdAck
  | rdNack
deriving DecidableEq, Repr, Inhabited

/-- Which latch a reception fills (R149, R150, R170). -/
inductive Latch where
  | hi
  | lo
deriving DecidableEq, Repr, Inhabited

/-- A row of a sequence table (R170): the primitive, the outcome slot it reports into, the latch a reception fills. -/
structure SeqRow where
  op : PrimOp
  slot : Option (Fin 5)
  latch : Option Latch
deriving DecidableEq, Repr, Inhabited

/-- A row that reports nothing and latches nothing. -/
def SeqRow.silent (op : PrimOp) : SeqRow := { op := op, slot := none, latch := none }

/-- A row with an outcome slot. -/
def SeqRow.reporting (op : PrimOp) (k : Fin 5) : SeqRow := { op := op, slot := some k, latch := none }

/-- A transport command is a sequence of length 1, itself, with outcome slot 0 (R141). -/
def seqTransport (op : PrimOp) : List SeqRow := [SeqRow.reporting op 0]

/-- RDACK or RDNACK as a command of its own: slot 0, and the byte is latched into HI (R149, R150). -/
def seqReception (op : PrimOp) : List SeqRow := [{ op := op, slot := some 0, latch := some .hi }]

/-- `Seq(WREG)` (R170). -/
def seqWreg (a : Addr) (r v : Byte) : List SeqRow :=
  [ SeqRow.reporting .start 0,
    SeqRow.reporting (.write (addrByte a dirWrite)) 1,
    SeqRow.reporting (.write r) 2,
    SeqRow.reporting (.write v) 3,
    SeqRow.silent .stop ]

/-- `Seq(RDW)` (R170). -/
def seqRdw (a : Addr) (r : Byte) : List SeqRow :=
  [ SeqRow.reporting .start 0,
    SeqRow.reporting (.write (addrByte a dirWrite)) 1,
    SeqRow.reporting (.write r) 2,
    SeqRow.reporting .start 3,
    SeqRow.reporting (.write (addrByte a dirRead)) 4,
    { op := .rdAck, slot := none, latch := some .hi },
    { op := .rdNack, slot := none, latch := some .lo },
    SeqRow.silent .stop ]

/-- `Seq(PROBE)` (R170). -/
def seqProbe (a : Addr) : List SeqRow :=
  [ SeqRow.reporting .start 0,
    SeqRow.reporting (.write (addrByte a dirWrite)) 1 ]

/-- The row of `STEP`, if the sequence has one left (R141). -/
def rowAt (rows : List SeqRow) (k : BitVec 4) : Option SeqRow := rows[k.toNat]?

/-- The command word the latches hold, bits 27:23 zero (R96, R140): what SEQ decodes to select the sequence. -/
def latchedWord (q : Seqr) : CmdWord := cmdWord q.opc q.addr q.reg q.val

end Sys2Proof.Machine
end

