-- ==== Sys2Proof/Machine/Flags.lean ====
section
/-! DEFINITION. Flag computations: the status register (30_encoding.md R94), outcome codes (R99), and the response word
with ILL, FAIL and ALIVE (R100, R101). The block has no arithmetic condition codes (10_state.md R38). -/

namespace Sys2Proof.Machine

/-- `STAT8`: `DONE` in bit 7, `ACKED` in bit 6, bits 5:0 zero (R94). -/
def statWord (e : Engine) : Byte := BitVec.ofBool e.done ++ BitVec.ofBool e.acked ++ 0#6

/-- `STAT[7]`. -/
def statDone (v : Byte) : Bool := v.getLsbD 7
/-- `STAT[6]`. -/
def statAcked (v : Byte) : Bool := v.getLsbD 6

/-- The outcome code (R99). -/
def StepOutcome.code : StepOutcome → BitVec 2
  | .ok => 0b00#2
  | .timeout => 0b01#2
  | .nack => 0b10#2
  | .notRun => 0b11#2

/-- TIMEOUT and NACK are the failures (60_exceptions.md R195). -/
def StepOutcome.failed : StepOutcome → Bool
  | .timeout | .nack => true
  | .ok | .notRun => false

/-- `FAIL`: at least one slot is TIMEOUT or NACK (R100). -/
def failOf (q : Seqr) : Bool :=
  q.o0.failed || q.o1.failed || q.o2.failed || q.o3.failed || q.o4.failed

/-- `ALIVE`: the start completed and the address byte was acknowledged (R101, 42_register_access.md R174). -/
def aliveOf (q : Seqr) : Bool := decide (q.o0 = .ok) && decide (q.o1 = .ok)

/-- The response word (R100). -/
def rspWord (ill : Bool) (q : Seqr) (data16 : BitVec 16) : RspWord :=
  BitVec.ofBool ill ++ BitVec.ofBool (failOf q) ++ 0#4 ++ q.o4.code ++ q.o3.code ++ q.o2.code ++ q.o1.code ++
    q.o0.code ++ data16

/-- `DATA16` of a command without result data (R101). -/
def dataNone (_ : Seqr) : BitVec 16 := 0
/-- `DATA16` of RDACK and RDNACK: `zext_16(HI)` (R101). -/
def dataByte (q : Seqr) : BitVec 16 := q.hi.setWidth 16
/-- `DATA16` of RDW: `HI ++ LO` (R101, R173). -/
def dataWord (q : Seqr) : BitVec 16 := wordOf q.hi q.lo
/-- `DATA16` of PROBE: bit 0 is ALIVE (R101). -/
def dataAlive (q : Seqr) : BitVec 16 := (BitVec.ofBool (aliveOf q)).setWidth 16

end Sys2Proof.Machine
end

