-- ==== Sys2Proof/Machine/Lines.lean ====
section
/-! DEFINITION. Line-level expansion of the bus events (20_memory.md R69): what the master drives, what the device drives,
and the level of the two wired lines. PRESUMED (log 8): the spec marks this as general knowledge; no event-level rule
depends on it. -/

namespace Sys2Proof.Machine

/-- What a party does with the two lines, or how they stand; true is released, or high (10_state.md R28). -/
structure LineLevels where
  sda : Bool
  scl : Bool
deriving DecidableEq, Repr, Inhabited

/-- Both lines high: the bus is idle, or a party drives neither (R69). -/
def released : LineLevels := ⟨true, true⟩

/-- "A line is high only if nobody pulls it low" (R69). -/
def wired (m d : LineLevels) : LineLevels := ⟨m.sda && d.sda, m.scl && d.scl⟩

/-! ### One clock, one byte -/

/-- One clock, by a party's part in it: SDA set with SCL low, SCL released, SCL pulled low (R69). -/
abbrev Clock := Bool → List LineLevels

/-- The master's part, with its data driver at a level: it makes the clock. -/
def clockBit : Clock := fun v => [⟨v, false⟩, ⟨v, true⟩, ⟨v, false⟩]

/-- The device's part, with its data driver at a level: it never drives SCL (00_scope.md R6). -/
def deviceBit : Clock := fun v => [⟨v, true⟩, ⟨v, true⟩, ⟨v, true⟩]

/-- Eight clocks sending a byte, bit 7 first and bit 0 last (R65, R69). -/
def sendByte (bit : Clock) (b : Byte) : List LineLevels :=
  bit (b.getLsbD 7) ++ bit (b.getLsbD 6) ++ bit (b.getLsbD 5) ++ bit (b.getLsbD 4) ++
    bit (b.getLsbD 3) ++ bit (b.getLsbD 2) ++ bit (b.getLsbD 1) ++ bit (b.getLsbD 0)

/-- Eight clocks with SDA released, while the other party sends. -/
def receiveByte (bit : Clock) : List LineLevels := sendByte bit 0xFF#8

/-- A receiver's ninth-clock level: low for an acknowledgement (R69). -/
def ackLevel (acked : Bool) : Bool := !acked

/-- The master's ninth-clock answer to a received byte: SDA low for ACK, released for NACK (R69). -/
def policyLevel : Policy → Bool
  | .ack => ackLevel true
  | .nack => ackLevel false

/-! ### Events -/

/-- What the master drives during an event (R69): a sender drives its bits and releases SDA for the ninth clock; a receiver
releases SDA for eight clocks and answers in the ninth. -/
def lineExpansion : WireEvent → List LineLevels
  | .s => [⟨false, true⟩, ⟨false, false⟩]
  | .sr => [⟨true, false⟩, ⟨true, true⟩, ⟨false, true⟩, ⟨false, false⟩]
  | .p => [⟨false, false⟩, ⟨false, true⟩, ⟨true, true⟩]
  | .tx b _ => sendByte clockBit b ++ clockBit true
  | .rx _ p => receiveByte clockBit ++ clockBit (policyLevel p)

/-- What the device drives meanwhile (R69): the acknowledgement of a byte sent to it, the bits of a byte it sends. -/
def deviceExpansion : WireEvent → List LineLevels
  | .s => [released, released]
  | .sr => [released, released, released, released]
  | .p => [released, released, released]
  | .tx _ a => receiveByte deviceBit ++ deviceBit (ackLevel a)
  | .rx b _ => sendByte deviceBit b ++ deviceBit true

/-- The levels of the two lines during an event. -/
def busExpansion (e : WireEvent) : List LineLevels := List.zipWith wired (lineExpansion e) (deviceExpansion e)

/-- The levels of the two lines over a wire trace, from an idle bus. -/
def busLevels (w : List WireEvent) : List LineLevels := released :: w.flatMap busExpansion

/-- What a receiver samples of levels: SDA wherever SCL is high (R69). -/
def sampled (l : List LineLevels) : List Bool := (l.filter fun x => x.scl).map fun x => x.sda

/-! ### Where the drivers stand between events -/

/-- The level of SDA_OUT after an event: the last one of its expansion (log 8). -/
def sdaAfter : WireEvent → Bool
  | .s | .sr => false
  | .p => true
  | .tx _ _ => true
  | .rx _ p => policyLevel p

/-- The level of SCL_OUT after an event: low while the transaction is open, released after P (R69). -/
def sclAfter : WireEvent → Bool
  | .s | .sr | .tx _ _ | .rx _ _ => false
  | .p => true

end Sys2Proof.Machine
end

