-- ==== Sys2Proof/Machine/Memory.lean ====
section
/-! DEFINITION. The registers of the reference device (20_memory.md R71) as a canonical list of (address, byte). The block
itself has no memory (R60). -/

namespace Sys2Proof.Machine

/-- What an unlisted register reads as: 0x00 (95_test_vectors.md, conventions: "entries of `mem` not listed are `0x00`"). -/
def Memory.unlisted : Byte := 0

/-- One byte of the device's registers. -/
def Memory.read (m : Memory) (a : Byte) : Byte :=
  match m with
  | [] => Memory.unlisted
  | (k, v) :: rest => if k = a.toNat then v else Memory.read rest a

/-- The list without the entry of an address. -/
def Memory.erase (m : Memory) (k : Nat) : Memory :=
  match m with
  | [] => []
  | (k', v) :: rest => if k' = k then Memory.erase rest k else (k', v) :: Memory.erase rest k

/-- Put an entry before the first entry with a greater address. -/
def Memory.insert (m : Memory) (k : Nat) (v : Byte) : Memory :=
  match m with
  | [] => [(k, v)]
  | (k', v') :: rest => if k < k' then (k, v) :: (k', v') :: rest else (k', v') :: Memory.insert rest k v

/-- Store one byte; storing what an unlisted register reads as removes the entry. -/
def Memory.write (m : Memory) (a : Byte) (v : Byte) : Memory :=
  if v = Memory.unlisted then Memory.erase m a.toNat else Memory.insert (Memory.erase m a.toNat) a.toNat v

/-- Every entry is at `lo` or above and addresses rise strictly, stay below 256, and no entry is redundant. -/
def Memory.wfFrom (lo : Nat) : Memory → Bool
  | [] => true
  | (k, v) :: rest => decide (lo ≤ k) && decide (k < 256) && decide (v ≠ Memory.unlisted) && Memory.wfFrom (k + 1) rest

/-- The canonical form. -/
def Memory.wf (m : Memory) : Bool := Memory.wfFrom 0 m

end Sys2Proof.Machine
end

