-- ==== Sys2Proof/Machine/RefSlave.lean ====
section
/-! DEFINITION. The reference device of 20_memory.md R71: what it answers, and how a bus event changes it. It is one
particular environment, not part of the block. -/

namespace Sys2Proof.Machine

/-- Whether the device acknowledges a transmitted byte (R71). `none`: R71 does not say (a data byte while it is addressed
for read, log 9). -/
def RefSlave.ack (d : RefSlave) (b : Byte) : Option Bool :=
  if d.awaitAddr then some (b.extractLsb' 1 7 == d.addr)
  else
    match d.mode with
    | .idle => some false
    | .expectIndex => some true
    | .addressedWrite => some true
    | .addressedRead => none

/-- What a reception yields: `mem[ptr]` while addressed for read (R71), else `0xFF` (R71 for idle; table V8 of
95_test_vectors.md for the write phase, log 9). DESIGN CHOICE, unsafe (log 9): between an `S` or `Sr` and its address byte
R71 does not say whether the mode survives; here the old mode does, so a reception there still yields `mem[ptr]` if the
device was addressed for read. -/
def RefSlave.byte (d : RefSlave) : Byte :=
  match d.mode with
  | .addressedRead => d.mem.read d.ptr
  | .idle | .expectIndex | .addressedWrite => 0xFF#8

/-- The device after an address byte (R71): bits 7:1 select it, bit 0 is the direction. -/
def RefSlave.onAddress (d : RefSlave) (b : Byte) : RefSlave :=
  if b.extractLsb' 1 7 = d.addr then
    { d with awaitAddr := false, mode := if b.getLsbD 0 then .addressedRead else .expectIndex }
  else { d with awaitAddr := false, mode := .idle }

/-- The device after a data byte (R71). -/
def RefSlave.onData (d : RefSlave) (b : Byte) : RefSlave :=
  match d.mode with
  | .expectIndex => { d with ptr := b, mode := .addressedWrite }
  | .addressedWrite => { d with mem := d.mem.write d.ptr b, ptr := d.ptr + 1 }
  | .idle | .addressedRead => d

/-- The device after a reception (R71); a reception it does not answer changes nothing, and one between an `S` or `Sr` and its
address byte is taken in the old mode (DESIGN CHOICE, log 9). -/
def RefSlave.onReceive (d : RefSlave) (p : Policy) : RefSlave :=
  match d.mode with
  | .addressedRead => { d with ptr := d.ptr + 1, mode := if p = .nack then .idle else .addressedRead }
  | .idle | .expectIndex | .addressedWrite => d

/-- The device after a bus event (R71). DESIGN CHOICE, unsafe (log 9): the mode survives `S` and `Sr`, until the address
byte. -/
def RefSlave.observe (d : RefSlave) (e : WireEvent) : RefSlave :=
  match e with
  | .s | .sr => { d with awaitAddr := true }
  | .p => { d with mode := .idle, awaitAddr := false }
  | .tx b _ => if d.awaitAddr then d.onAddress b else d.onData b
  | .rx _ p => d.onReceive p

end Sys2Proof.Machine
end

