-- ==== Sys2Proof/Machine/Ops.lean ====
section
/-! DEFINITION. The named operations: the pseudocode primitives of 00_scope.md R13 (CtlWrite, emit, draw, report, respond)
and the accept step (41_transport_primitives.md R140). The block takes no exception and returns from none
(60_exceptions.md R190, R199, R200), so there is no operation for either: a failure is an outcome that `report` writes. -/

namespace Sys2Proof.Machine

/-! ### The engine register interface (SEQ's side) -/

/-- The effect of `CtlWrite(enset, op)` on the engine (30_encoding.md R93). -/
def Engine.ctlWrite (e : Engine) (enset : Bool) (op : CtlOp) : Engine :=
  let e := { e with en := e.en || enset }
  match op with
  | .none => e
  | .stop => { e with done := false, pend := .none, stopReq := true }
  | .start => { e with done := false, pend := .start }
  | .tx => { e with done := false, pend := .tx }
  | .rxAck => { e with done := false, pend := .rxAck }
  | .rxNack => { e with done := false, pend := .rxNack }

/-- Append to the register trace (R11, R154). -/
def traceReg (x : RegAccess) (s : State) : State :=
  { s with hist := { s.hist with regs := s.hist.regs ++ [x] } }

/-- `CtlWrite(enset, op)`: one write of CTRL (R93). -/
def ctlWrite (enset : Bool) (op : CtlOp) (s : State) : State :=
  traceReg (.ctrlWrite (ctrlWord enset op)) { s with eng := s.eng.ctlWrite enset op }

/-- SEQ writes DATA (30_encoding.md R95). -/
def writeData (b : Byte) (s : State) : State :=
  traceReg (.dataWrite b) { s with eng := { s.eng with data := b } }

/-- The state after SEQ has read STAT: a read has no side effect but the trace (R94). -/
def traceStat (s : State) : State := traceReg (.statRead (statWord s.eng)) s

/-- The state after SEQ has read DATA: a read has no side effect but the trace (R95). -/
def traceData (s : State) : State := traceReg (.dataRead s.eng.data) s

/-! ### Bus events and the environment -/

/-- `emit(e)`: the event is appended to the wire trace (R13, R29); the line drivers stand as it leaves them (R69) and the
reference device, if it is there, sees it (R71). -/
def emit (e : WireEvent) (s : State) : State :=
  { s with
    eng := { s.eng with sdaOut := sdaAfter e, sclOut := sclAfter e }
    hist := { s.hist with wire := s.hist.wire ++ [e] }
    inp := { s.inp with device := s.inp.device.map fun d => d.observe e } }

/-- `draw ready` (20_memory.md R70): the scripted answer, or true from the reference device (R71), or a free value. -/
def drawReady (s : State) : Bool × State :=
  match s.inp.readyIn with
  | r :: rs => (r, { s with inp := { s.inp with readyIn := rs } })
  | [] =>
    match s.inp.device with
    | some _ => (true, s)
    | none => (Config.envReady s.hist.wire s.inp.tick, s)

/-- `draw ack` for a byte (R70): the scripted answer, or the reference device's, or a free value. -/
def drawAck (b : Byte) (s : State) : Bool × State :=
  match s.inp.ackIn with
  | a :: as => (a, { s with inp := { s.inp with ackIn := as } })
  | [] =>
    match s.inp.device with
    | some d => ((d.ack b).getD (Config.envAck s.hist.wire b), s)
    | none => (Config.envAck s.hist.wire b, s)

/-- `draw byte` (R70): the scripted answer, or the reference device's, or a free value. -/
def drawByte (s : State) : Byte × State :=
  match s.inp.byteIn with
  | b :: bs => (b, { s with inp := { s.inp with byteIn := bs } })
  | [] =>
    match s.inp.device with
    | some d => (d.byte, s)
    | none => (Config.envByte s.hist.wire, s)

/-! ### Outcomes and the response -/

/-- `report(k, o)`: write an outcome slot (R13). -/
def Seqr.report (q : Seqr) (k : Fin 5) (o : StepOutcome) : Seqr :=
  match k with
  | 0 => { q with o0 := o }
  | 1 => { q with o1 := o }
  | 2 => { q with o2 := o }
  | 3 => { q with o3 := o }
  | 4 => { q with o4 := o }

/-- Publish a response word and clear BUSY (R13 `respond`, R144). -/
def deliver (w : RspWord) (s : State) : State :=
  { s with
    port := { busy := false, rsp := w }
    hist := { s.hist with rsps := s.hist.rsps ++ [w] } }

/-- The respond step of a legal command (41_transport_primitives.md R144). -/
def respond (data16 : Seqr → BitVec 16) (s : State) : State := deliver (rspWord false s.seq (data16 s.seq)) s

/-- The respond step of a word that is no command: `ILL = 1`, the slots as accept left them, no data (R102, R144). -/
def respondIllegal (s : State) : State := deliver (rspWord true s.seq 0) s

/-! ### Accept -/

/-- The accept step of a command word (41_transport_primitives.md R140); enabled iff `BUSY = 0`. -/
def accept (w : CmdWord) (s : State) : State :=
  { s with
    port := { s.port with busy := true }
    seq :=
      { s.seq with
        opc := opcOf w, addr := addrOf w, reg := regOf w, val := valOf w,
        o0 := .notRun, o1 := .notRun, o2 := .notRun, o3 := .notRun, o4 := .notRun,
        stepIdx := 0, phase := .idle, wsub := false, legal := legalCmd w } }

end Sys2Proof.Machine
end

