-- ==== Sys2Proof/Machine/BusEngine.lean ====
section
/-! DEFINITION. The bus engine's operations (40_bus_engine.md R120 to R125). An operation is requested by a trigger write of
its CTRL word (30_encoding.md R93) and performed later by ENG in one step: its meaning is the performing on an ENG turn
and the write on any other (log 7). -/

namespace Sys2Proof.Machine

/-! ### When ENG has a step (R120) -/

/-- `EN = 1` and a stop is requested: E_STOP is next, before anything in PEND (R120, R122). -/
def canStop (e : Engine) : Bool := e.en && e.stopReq
/-- E_START is next; the bus may be open or not (R121). -/
def canStart (e : Engine) : Bool := e.en && !e.stopReq && decide (e.pend = .start)
/-- E_TX is next: only on an open bus (R123). -/
def canTx (e : Engine) : Bool := e.en && !e.stopReq && decide (e.pend = .tx) && e.isOpen
/-- E_RX_ACK is next: only on an open bus (R124). -/
def canRxAck (e : Engine) : Bool := e.en && !e.stopReq && decide (e.pend = .rxAck) && e.isOpen
/-- E_RX_NACK is next: only on an open bus (R125). -/
def canRxNack (e : Engine) : Bool := e.en && !e.stopReq && decide (e.pend = .rxNack) && e.isOpen

/-! ### Performing an operation -/

/-- What START, TX, RX_ACK and RX_NACK have in common: nothing is pending and DONE is set (R121, R123 to R125). -/
def finish (s : State) : State := { s with eng := { s.eng with pend := .none, done := true } }

/-- E_START (R121). -/
def performStart (s : State) : State :=
  let t := emit (if s.eng.isOpen then .sr else .s) s
  finish { t with eng := { t.eng with isOpen := true } }

/-- E_STOP (R122): with the bus not open nothing is emitted; DONE and PEND do not change. -/
def performStop (s : State) : State :=
  let t := if s.eng.isOpen then emit .p s else s
  { t with eng := { t.eng with isOpen := false, stopReq := false } }

/-- E_TX (R123): the byte is the one DATA holds now. -/
def performTx (s : State) : State :=
  let a := drawAck s.eng.data s
  let t := emit (.tx s.eng.data a.1) a.2
  finish { t with eng := { t.eng with acked := a.1 } }

/-- A reception (R124, R125). -/
def performRx (p : Policy) (s : State) : State :=
  let b := drawByte s
  let t := emit (.rx b.1 p) b.2
  finish { t with eng := { t.eng with data := b.1 } }

/-- The step of ENG (R120): if the operation is next and Env answers ready it is performed whole; otherwise ENG has no step
and the block is unchanged. DEDUCED, safe (log 21): Env is asked only when the other conditions hold. -/
def engTurn (can : Engine → Bool) (perform : State → State) (s : State) : State :=
  if can s.eng then
    let r := drawReady s
    if r.1 then perform r.2 else r.2
  else s

/-- An engine operation's word: performed on an ENG turn (R120), written to CTRL on any other (R93). -/
def engineOp (enset : Bool) (op : CtlOp) (can : Engine → Bool) (perform : State → State) (s : State) : State :=
  if s.inp.turn = .eng then engTurn can perform s else ctlWrite enset op s

/-! ### The meanings -/

/-- E_START (R121). -/
def execEStart (enset : Bool) (s : State) : Answer := .next (engineOp enset .start canStart performStart s)

/-- E_STOP (R122). -/
def execEStop (enset : Bool) (s : State) : Answer := .next (engineOp enset .stop canStop performStop s)

/-- E_TX (R123). -/
def execETx (enset : Bool) (s : State) : Answer := .next (engineOp enset .tx canTx performTx s)

/-- E_RX_ACK (R124). -/
def execERxAck (enset : Bool) (s : State) : Answer := .next (engineOp enset .rxAck canRxAck (performRx .ack) s)

/-- E_RX_NACK (R125). -/
def execERxNack (enset : Bool) (s : State) : Answer := .next (engineOp enset .rxNack canRxNack (performRx .nack) s)

/-- CTL_ENSET: the write of CTRL that only sets EN (R93). -/
def execCtlEnset (s : State) : Answer := .next (ctlWrite true .none s)

end Sys2Proof.Machine
end

