-- ==== Sys2Proof/Machine/Sequencer.lean ====
section
/-! DEFINITION. The command cycle of SEQ (41_transport_primitives.md R141 to R144, R151, R152): issue, poll, retire,
respond. The commands' meanings are this cycle over their own sequence tables. -/

namespace Sys2Proof.Machine

/-! ### Issue -/

/-- Append a primitive invocation to PRIMS (R152). -/
def traceCall (c : PrimCall) (s : State) : State :=
  { s with hist := { s.hist with prims := s.hist.prims ++ [c] } }

/-- The issue step of ENABLE (R145): no wait, and nothing in PRIMS (R152). -/
def issueEnable (s : State) : State :=
  let s := ctlWrite true .none s
  { s with seq := { s.seq with prim := .enable, phase := .completed } }

/-- The issue step of START (R146). -/
def issueStart (s : State) : State :=
  let s := ctlWrite false .start (traceCall .start s)
  { s with seq := { s.seq with prim := .start, cnt := s.par.budgetStart, phase := .issued } }

/-- The issue step of STOP (R147): no poll. -/
def issueStop (s : State) : State :=
  let s := ctlWrite false .stop (traceCall .stop s)
  { s with seq := { s.seq with prim := .stop, phase := .completed } }

/-- Issue step 1 of WRITE (R148): load the data register. DEDUCED, safe (log 20): PRIM and PBYTE are set here. -/
def issueWriteLoad (b : Byte) (s : State) : State :=
  let s := writeData b (traceCall (.writeByte b) s)
  { s with seq := { s.seq with prim := .write, pbyte := b, wsub := true } }

/-- Issue step 2 of WRITE (R148): trigger the transmission. -/
def issueWriteTrigger (s : State) : State :=
  let s := ctlWrite false .tx s
  { s with seq := { s.seq with cnt := s.par.budgetWrite, wsub := false, phase := .issued } }

/-- The issue step of RDACK (R149). -/
def issueRdAck (s : State) : State :=
  let s := ctlWrite false .rxAck (traceCall .readByteAck s)
  { s with seq := { s.seq with prim := .rdAck, phase := .issued } }

/-- The issue step of RDNACK (R150). -/
def issueRdNack (s : State) : State :=
  let s := ctlWrite false .rxNack (traceCall .readByteNack s)
  { s with seq := { s.seq with prim := .rdNack, phase := .issued } }

/-- The issue step of a primitive (R145 to R150). -/
def issue (op : PrimOp) (s : State) : State :=
  match op with
  | .enable => issueEnable s
  | .start => issueStart s
  | .stop => issueStop s
  | .write b => if s.seq.wsub then issueWriteTrigger s else issueWriteLoad b s
  | .rdAck => issueRdAck s
  | .rdNack => issueRdNack s

/-! ### Poll -/

/-- The counter half of a guarded poll that found `DONE = 0` (R142): decrement, then compare with zero. -/
def Seqr.countDown (q : Seqr) : Seqr :=
  { q with cnt := q.cnt - 1, phase := if q.cnt - 1 = 0 then .timedOut else q.phase }

/-- Guarded are START and WRITE (R142); the receptions wait without a budget (R143). -/
def Prim.guarded : Prim → Bool
  | .start | .write => true
  | .stop | .rdAck | .rdNack | .enable => false

/-- The sequencer's part of one poll iteration that sampled `DONE = done` (R142, R143). -/
def Seqr.poll (q : Seqr) (done : Bool) : Seqr :=
  if done then { q with phase := .completed }
  else if q.prim.guarded then q.countDown
  else q

/-- One poll iteration: one read of STAT, then the decision (R142, R143). -/
def poll (s : State) : State :=
  let t := traceStat s
  { t with seq := t.seq.poll (statDone (statWord s.eng)) }

/-! ### Retire -/

/-- Whether retire reads STAT once more, for ACKED: a WRITE that ended Completed (R148, R154). -/
def looksAtAck (q : Seqr) : Bool := decide (q.prim = .write) && decide (q.phase ≠ .timedOut)

/-- The outcome of the primitive in execution (R145 to R150): TIMEOUT for a guarded wait that ran out, NACK for a byte not
acknowledged, else OK. -/
def outcomeOf (s : State) : StepOutcome :=
  if s.seq.prim.guarded && decide (s.seq.phase = .timedOut) then .timeout
  else if looksAtAck s.seq && !statAcked (statWord s.eng) then .nack
  else .ok

/-- `report(k, o)` where the step has a slot (R151). -/
def Seqr.reportIf (q : Seqr) (slot : Option (Fin 5)) (o : StepOutcome) : Seqr :=
  match slot with
  | some k => q.report k o
  | none => q

/-- Latch a received byte (R149, R150). -/
def Seqr.latchIf (q : Seqr) (latch : Option Latch) (b : Byte) : Seqr :=
  match latch with
  | some .hi => { q with hi := b }
  | some .lo => { q with lo := b }
  | none => q

/-- The end of a retire step: Idle, and the next step of the sequence (R151). -/
def Seqr.advance (q : Seqr) : Seqr := { q with phase := .idle, stepIdx := q.stepIdx + 1 }

/-- The register reads retire makes (R154). -/
def traceRetire (row : SeqRow) (s : State) : State :=
  let s := if looksAtAck s.seq then traceStat s else s
  if row.latch.isSome then traceData s else s

/-- The retire step (R151). -/
def retire (row : SeqRow) (s : State) : State :=
  let t := traceRetire row s
  { t with seq := ((t.seq.reportIf row.slot (outcomeOf s)).latchIf row.latch s.eng.data).advance }

/-! ### Dispatch -/

/-- The row retire works with. Past the end of the sequence, which no run reaches, the primitive reports nothing (log 13). -/
def retireRow (rows : List SeqRow) (k : BitVec 4) : SeqRow := (rowAt rows k).getD (SeqRow.silent .enable)

/-- The enabled step of SEQ for a command with this sequence and this result data (R141). While `BUSY = 0` SEQ has no step
and nothing changes. -/
def seqStep (rows : List SeqRow) (data16 : Seqr → BitVec 16) (s : State) : State :=
  if s.port.busy then
    match s.seq.phase with
    | .idle =>
      match rowAt rows s.seq.stepIdx with
      | some row => issue row.op s
      | none => respond data16 s
    | .issued => poll s
    | .completed => retire (retireRow rows s.seq.stepIdx) s
    | .timedOut => retire (retireRow rows s.seq.stepIdx) s
  else s

end Sys2Proof.Machine
end

