-- ==== Sys2Proof/Machine/RegisterAccess.lean ====
section
/-! DEFINITION. The register-access commands (42_register_access.md R172 to R174): the same command cycle over the fixed
sequence tables of R170. Fire-and-continue (R171) is in `Seqr.advance`: no outcome changes what comes next. -/

namespace Sys2Proof.Machine

/-- WREG a, r, v (R172). -/
def execWreg (a : Addr) (r v : Byte) (s : State) : Answer := .next (seqStep (seqWreg a r v) dataNone s)

/-- RDW a, r (R173). -/
def execRdw (a : Addr) (r : Byte) (s : State) : Answer := .next (seqStep (seqRdw a r) dataWord s)

/-- PROBE a (R174): no STOP. -/
def execProbe (a : Addr) (s : State) : Answer := .next (seqStep (seqProbe a) dataAlive s)

end Sys2Proof.Machine
end

