-- ==== Sys2Proof/Machine/Transport.lean ====
section
/-! DEFINITION. The transport commands (41_transport_primitives.md R145 to R150): each meaning is the enabled step of SEQ
while that command is in execution (log 7). -/

namespace Sys2Proof.Machine

/-- ENABLE (R145). -/
def execEnable (s : State) : Answer := .next (seqStep (seqTransport .enable) dataNone s)

/-- START, the repeated start too (R146). -/
def execStart (s : State) : Answer := .next (seqStep (seqTransport .start) dataNone s)

/-- STOP (R147). -/
def execStop (s : State) : Answer := .next (seqStep (seqTransport .stop) dataNone s)

/-- WRITE b (R148). -/
def execWrite (b : Byte) (s : State) : Answer := .next (seqStep (seqTransport (.write b)) dataNone s)

/-- RDACK (R149). -/
def execRdAck (s : State) : Answer := .next (seqStep (seqReception .rdAck) dataByte s)

/-- RDNACK (R150). -/
def execRdNack (s : State) : Answer := .next (seqStep (seqReception .rdNack) dataByte s)

end Sys2Proof.Machine
end

