-- ==== Sys2Proof/Machine/Dispatch.lean ====
section
/-! DEFINITION. One arm per instruction. -/

namespace Sys2Proof.Machine

/-- The meaning of an instruction: one step of the agent it belongs to. -/
def exec (i : Instr) (s : State) : Host.Outcome State Fault Refusal :=
  match i with
  | .enable => Sys2Proof.Machine.execEnable s
  | .start => Sys2Proof.Machine.execStart s
  | .stop => Sys2Proof.Machine.execStop s
  | .write b => Sys2Proof.Machine.execWrite b s
  | .rdAck => Sys2Proof.Machine.execRdAck s
  | .rdNack => Sys2Proof.Machine.execRdNack s
  | .wreg a r v => Sys2Proof.Machine.execWreg a r v s
  | .rdw a r => Sys2Proof.Machine.execRdw a r s
  | .probe a => Sys2Proof.Machine.execProbe a s
  | .eStart e => Sys2Proof.Machine.execEStart e s
  | .eStop e => Sys2Proof.Machine.execEStop e s
  | .eTx e => Sys2Proof.Machine.execETx e s
  | .eRxAck e => Sys2Proof.Machine.execERxAck e s
  | .eRxNack e => Sys2Proof.Machine.execERxNack e s
  | .ctlEnset => Sys2Proof.Machine.execCtlEnset s

end Sys2Proof.Machine
end

