-- ==== Sys2Proof/Machine/Fetch.lean ====
section
/-! DEFINITION. Whose turn it is and what that turn runs: HOST accepts a word or takes a response, SEQ runs the command
whose word the latches hold, ENG runs the operation requested of it (00_scope.md R9, 41_transport_primitives.md R140, R141,
40_bus_engine.md R120). Nothing but SEQ's issue steps writes CTRL (20_memory.md R60). -/

namespace Sys2Proof.Machine

/-- What a turn comes to: an instruction to run at a state, or an answer without one. -/
inductive Fetched where
  | run (i : Instr) (s : State)
  | answer (a : Answer)

/-- The turn passes to the next agent of the schedule, or to a free one when the schedule has run out (R9, log 1). -/
def takeTurn (s : State) : State :=
  match s.inp.sched with
  | a :: as => { s with inp := { s.inp with turn := a, sched := as, tick := s.inp.tick + 1 } }
  | [] => { s with inp := { s.inp with turn := Config.agentAt s.inp.tick, tick := s.inp.tick + 1 } }

/-- The host's move is made. -/
def hostDone (rest : List HostMove) (s : State) : State := { s with inp := { s.inp with hostIn := rest } }

/-- HOST takes the response (R9): a read of RSP. The spec makes the read an error state before the first response (R37:
"a model refuses a read of it"; U3: "fault"), which is when `rsps` is empty. -/
def takeResponse (s : State) : Answer :=
  if s.hist.rsps.isEmpty then .fault .responseUnwritten
  else .next { s with hist := { s.hist with taken := s.hist.taken ++ [s.port.rsp] } }

/-- A HOST turn; with no move left the host does nothing (log 19). While `BUSY = 1` the host has no step: its next move waits,
neither queued in the block nor dropped (R140, U13). -/
def fetchHost (s : State) : Fetched :=
  match s.inp.hostIn with
  | [] => .answer (.next s)
  | .reset :: _ => .answer (.refused .resetInsideRun)
  | .command w :: rest => .answer (.next (if s.port.busy then s else accept w (hostDone rest s)))
  | .takeResponse :: rest => .answer (if s.port.busy then .next s else takeResponse (hostDone rest s))

/-- A SEQ turn (R141): the command whose word stands in the latches; a word that is no command is answered at once (R102).
DESIGN CHOICE, safe (log 22): latches of a legal word that decode to nothing, which no run reaches, are answered so too. -/
def fetchSeq (s : State) : Fetched :=
  if s.port.busy then
    if s.seq.legal then
      match decodeCmd (latchedWord s.seq) with
      | .instr i => .run i s
      | .bad _ => .answer (.next (respondIllegal s))
    else .answer (.next (respondIllegal s))
  else .answer (.next s)

/-- An ENG turn (R120): a requested stop first, else the operation in PEND. The ENSET bit had its effect when SEQ wrote the
word (R93) and has none here, so its operand is immaterial (log 5). -/
def fetchEng (s : State) : Fetched :=
  if s.eng.stopReq then .run (.eStop false) s
  else
    match s.eng.pend with
    | .none => .answer (.next s)
    | .start => .run (.eStart false) s
    | .tx => .run (.eTx false) s
    | .rxAck => .run (.eRxAck false) s
    | .rxNack => .run (.eRxNack false) s

/-- What the next turn comes to. -/
def fetch (s : State) : Fetched :=
  let t := takeTurn s
  match t.inp.turn with
  | .host => fetchHost t
  | .seq => fetchSeq t
  | .eng => fetchEng t

/-- A state whose next step fetches a command word: the word has been accepted and SEQ steps next. -/
def placeCmd (w : CmdWord) (s : State) : State :=
  let t := accept w s
  { t with inp := { t.inp with sched := .seq :: t.inp.sched } }

/-- The bus opened by a start condition, if it is not open: what a byte operation needs (R123 to R125). -/
def openBus (s : State) : State :=
  if s.eng.isOpen then s
  else
    let t := emit .s s
    { t with eng := { t.eng with isOpen := true } }

/-- A state whose next step performs an operation: SEQ has just written its CTRL word, the engine is enabled with no other
stop before it, ENG steps next and Env is ready (R120). -/
def requested (enset : Bool) (op : CtlOp) (s : State) : State :=
  let t := ctlWrite enset op { s with eng := { s.eng with en := true, stopReq := false } }
  { t with inp := { t.inp with sched := .eng :: t.inp.sched, readyIn := true :: t.inp.readyIn } }

/-- A state whose next step runs a CTRL word (logs 5, 6): an operation has been requested and ENG performs it; the word of
CTL_ENSET is the one the issue step of ENABLE writes (R145). Unchanged for a word that is no row of the table. -/
def placeCtl (w : Byte) (s : State) : State :=
  match (decodeCtl w).toOption.bind Instr.ctlFields with
  | some (_, .none) => placeCmd (cmdWord 0x1#4 0 0 0) s
  | some (e, .start) => requested e .start s
  | some (e, .stop) => requested e .stop s
  | some (e, .tx) => requested e .tx (openBus s)
  | some (e, .rxAck) => requested e .rxAck (openBus s)
  | some (e, .rxNack) => requested e .rxNack (openBus s)
  | none => s

/-- A state whose next step fetches a table word; unchanged for a width no interface has. -/
def placeTableWord (nbits w : Nat) (s : State) : State :=
  match tableWord nbits w with
  | some (.cmd c) => placeCmd c s
  | some (.ctl c) => placeCtl c s
  | none => s

end Sys2Proof.Machine
end

