-- ==== Sys2Proof/Machine/Step.lean ====
section
/-! DEFINITION. One step: the next agent's turn is fetched, and its instruction, if it has one, is run. -/

namespace Sys2Proof.Machine

/-- Run what a turn came to. -/
def runFetched : Fetched → Host.Outcome State Fault Refusal
  | .run i s => exec i s
  | .answer a => a

/-- One step of the machine (00_scope.md R9). -/
def step (s : State) : Host.Outcome State Fault Refusal := runFetched (fetch s)

/-- `s` with a table word where the next step runs it (logs 5, 6): a command word accepted with SEQ to step next, or a CTRL
word written by SEQ with ENG to step next; CTL_ENSET is written by the issue step of ENABLE. -/
def State.withFetchWord (s : State) (nbits w : Nat) : State := placeTableWord nbits w s

end Sys2Proof.Machine
end

