-- ==== Sys2Proof/Machine/Assembler.lean ====
section
/-! DEFINITION. The assembler of 30_encoding.md R104 and R105: one command a line, in the mnemonic form or in the source's
call form, a comment after a semicolon; each pseudo-instruction is exactly one command. -/

namespace Sys2Proof.Machine

/-! ### Lines to instructions -/

/-- The byte operand of WADDR: `(a << 1) | 0` or `(a << 1) | 1` (R105). -/
def waddrByte (a : Nat) (d : Bool) : Nat := a * 2 + d.toNat

/-- The one command of a well-formed line (R104, R105); a value outside its range is refused, not truncated. -/
def asmInstr (l : AsmLine) : Option Instr :=
  if l.wf then
    match l with
    | .enable => some .enable
    | .start => some .start
    | .stop => some .stop
    | .write b => some (.write (BitVec.ofNat 8 b))
    | .rdAck => some .rdAck
    | .rdNack => some .rdNack
    | .wreg a r v => some (.wreg (BitVec.ofNat 7 a) (BitVec.ofNat 8 r) (BitVec.ofNat 8 v))
    | .rdw a r => some (.rdw (BitVec.ofNat 7 a) (BitVec.ofNat 8 r))
    | .probe a => some (.probe (BitVec.ofNat 7 a))
    | .rstart => some .start
    | .waddr a d => some (.write (BitVec.ofNat 8 (waddrByte a d)))
  else none

/-- The command word of a line. -/
def asmWord (l : AsmLine) : Option IfaceWord := (asmInstr l).map encode

/-! ### Text to lines -/

/-- The text before a comment (R104). -/
def dropComment : List Char → List Char
  | [] => []
  | c :: cs => if c = ';' then [] else c :: dropComment cs

/-- Blanks, commas and the call form's parentheses separate tokens (log 17). -/
def separates (c : Char) : Bool := c = ' ' || c = '\t' || c = ',' || c = '(' || c = ')'

/-- The tokens of a line, `cur` being the token read so far, reversed. -/
def tokensFrom (cur : List Char) : List Char → List (List Char)
  | [] => if cur.isEmpty then [] else [cur.reverse]
  | c :: cs =>
    if separates c then (if cur.isEmpty then tokensFrom [] cs else cur.reverse :: tokensFrom [] cs)
    else tokensFrom (c :: cur) cs

/-- The value of a digit. -/
def digitValue (c : Char) : Nat :=
  let n := c.toNat
  if 48 ≤ n ∧ n ≤ 57 then n - 48
  else if 97 ≤ n ∧ n ≤ 102 then n - 87
  else if 65 ≤ n ∧ n ≤ 70 then n - 55
  else 16

/-- The number digits spell in a base, `acc` being the value so far. -/
def digitsFrom (base acc : Nat) : List Char → Option Nat
  | [] => some acc
  | c :: cs => if digitValue c < base then digitsFrom base (acc * base + digitValue c) cs else none

/-- A number: decimal, `0x` hexadecimal or `0b` binary (R104). -/
def parseNumber : List Char → Option Nat
  | [] => none
  | '0' :: 'x' :: c :: cs => digitsFrom 16 0 (c :: cs)
  | '0' :: 'b' :: c :: cs => digitsFrom 2 0 (c :: cs)
  | c :: cs => digitsFrom 10 0 (c :: cs)

/-- The direction of WADDR (R105). -/
def parseDir : List Char → Option Bool
  | ['W'] => some false
  | ['R'] => some true
  | _ => none

/-- The line a mnemonic or call name and its operand tokens spell (tables of R104 and R105). -/
def lineOf (name : String) (args : List (List Char)) : Option AsmLine :=
  match args with
  | [] =>
    if name = "ENABLE" then some .enable
    else if name = "START" || name = "start" then some .start
    else if name = "STOP" || name = "stop" then some .stop
    else if name = "RDACK" || name = "readByteAck" then some .rdAck
    else if name = "RDNACK" || name = "readByteNack" then some .rdNack
    else if name = "RSTART" then some .rstart
    else none
  | [x] =>
    if name = "WRITE" || name = "writeByte" then (parseNumber x).map .write
    else if name = "PROBE" then (parseNumber x).map .probe
    else none
  | [x, y] =>
    if name = "RDW" || name = "readWord" then
      match parseNumber x, parseNumber y with
      | some a, some r => some (.rdw a r)
      | _, _ => none
    else if name = "WADDR" then
      match parseNumber x, parseDir y with
      | some a, some d => some (.waddr a d)
      | _, _ => none
    else none
  | [x, y, z] =>
    if name = "WREG" || name = "writeRegister" then
      match parseNumber x, parseNumber y, parseNumber z with
      | some a, some r, some v => some (.wreg a r v)
      | _, _, _ => none
    else none
  | _ => none

/-- What a line of text assembles to. -/
inductive Assembled where
  | blank
  | word (w : IfaceWord)
  | refused
deriving DecidableEq, Repr, Inhabited

/-- Assemble one line of text (R104). -/
def assembleLine (text : List Char) : Assembled :=
  match tokensFrom [] (dropComment text) with
  | [] => .blank
  | name :: args =>
    match (lineOf (String.ofList name) args).bind asmWord with
    | some w => .word w
    | none => .refused

end Sys2Proof.Machine
end

