-- ==== Sys2Proof/Machine/HostProgram.lean ====
section
/-! DEFINITION. The host's programs: the platform's constants (20_memory.md R63), the boot order (70_reset_and_hazards.md
R223, R224), the initialization sequence (R227) and the poll cycle (R228). They use the block; they are not part of it. -/

namespace Sys2Proof.Machine

/-- The sensor's bus address `DEV_ADDR` (00_scope.md R8, 20_memory.md R63). -/
def devAddr : Addr := 0x68#7

/-- Power management register (R63). -/
def regPower : Byte := 0x6B#8
/-- Sample-rate divider (R63). -/
def regSampleRate : Byte := 0x19#8
/-- Filter configuration (R63). -/
def regFilter : Byte := 0x1A#8
/-- Gyro range (R63). -/
def regGyroRange : Byte := 0x1B#8
/-- Accelerometer range (R63). -/
def regAccelRange : Byte := 0x1C#8
/-- Accelerometer X high byte (R63). -/
def regAccelX : Byte := 0x3B#8
/-- Accelerometer Y high byte (R63). -/
def regAccelY : Byte := 0x3D#8
/-- Accelerometer Z high byte (R63). -/
def regAccelZ : Byte := 0x3F#8
/-- Gyro Z high byte (R63). -/
def regGyroZ : Byte := 0x47#8

/-- The five values of the initialization, parameters of the host program (R227, U15). -/
structure InitValues where
  pwr : Byte
  smplrt : Byte
  filter : Byte
  gyro : Byte
  accel : Byte
deriving DecidableEq, Repr, Inhabited

/-- The device initialization sequence (R227). -/
def initSequence (v : InitValues) : List Instr :=
  [ .wreg devAddr regPower v.pwr, .wreg devAddr regSampleRate v.smplrt, .wreg devAddr regFilter v.filter,
    .wreg devAddr regGyroRange v.gyro, .wreg devAddr regAccelRange v.accel, .probe devAddr ]

/-- Boot (R223): ENABLE (R224), the settling delay of R226 which takes no step, then the initialization. -/
def bootSequence (v : InitValues) : List Instr := .enable :: initSequence v

/-- One poll cycle: the four words of a sample (R228). -/
def pollCycle : List Instr :=
  [ .rdw devAddr regAccelX, .rdw devAddr regAccelY, .rdw devAddr regAccelZ, .rdw devAddr regGyroZ ]

/-- The host's moves that issue these commands, taking each response; an engine word is no command and is not issued. -/
def hostMoves : List Instr → List HostMove
  | [] => []
  | i :: is =>
    match encode i with
    | .cmd w => .command w :: .takeResponse :: hostMoves is
    | .ctl _ => hostMoves is

/-- The premise under which the first WREG means what it says (R223, R226): the engine is enabled and the settling delay
has elapsed. The block enforces neither. -/
def MeaningfulFirstWreg (s : State) : Prop := s.eng.en = true ∧ Config.SettleElapsed

end Sys2Proof.Machine
end

