-- ==== Sys2Proof/Safety.lean ====
section
/-! DEFINITION. The words claims are made in: quiescent and hung states, the shape of a wire trace, the sequence of a
command, what a run is, and the invariant every step keeps. -/

namespace Sys2Proof.Machine

/-! ### The wire trace (20_memory.md R67) -/

/-- Whether the bus is open after one more event, from whether it was; `none`: an event outside its place. -/
def wireNext (isOpen : Bool) : WireEvent → Option Bool
  | .s => if isOpen then none else some true
  | .sr => if isOpen then some true else none
  | .p => if isOpen then some false else none
  | .tx _ _ => if isOpen then some true else none
  | .rx _ _ => if isOpen then some true else none

/-- Whether the bus is open after a wire trace; `none`: the trace is no concatenation of transactions (R67). -/
def wireFrom (isOpen : Bool) : List WireEvent → Option Bool
  | [] => some isOpen
  | e :: es =>
    match wireNext isOpen e with
    | some o => wireFrom o es
    | none => none

/-- From an idle bus. -/
def wireShape (w : List WireEvent) : Option Bool := wireFrom false w

/-! ### The command in execution -/

/-- `Seq(OPC)` (41_transport_primitives.md R141, 42_register_access.md R170); an engine word has none. -/
def seqOf : Instr → List SeqRow
  | .enable => seqTransport .enable
  | .start => seqTransport .start
  | .stop => seqTransport .stop
  | .write b => seqTransport (.write b)
  | .rdAck => seqReception .rdAck
  | .rdNack => seqReception .rdNack
  | .wreg a r v => seqWreg a r v
  | .rdw a r => seqRdw a r
  | .probe a => seqProbe a
  | .eStart _ | .eStop _ | .eTx _ | .eRxAck _ | .eRxNack _ | .ctlEnset => []

/-- The result data of a command (30_encoding.md R101). -/
def dataOf : Instr → Seqr → BitVec 16
  | .enable | .start | .stop | .write _ | .wreg _ _ _ => dataNone
  | .rdAck | .rdNack => dataByte
  | .rdw _ _ => dataWord
  | .probe _ => dataAlive
  | .eStart _ | .eStop _ | .eTx _ | .eRxAck _ | .eRxNack _ | .ctlEnset => dataNone

/-- The nine commands of the host port (30_encoding.md R97). -/
def isCommand (i : Instr) : Bool := i.cmdPattern.isSome

/-- The command in execution, if a legal one is. -/
def running (s : State) : Option Instr :=
  if s.port.busy && s.seq.legal then (decodeCmd (latchedWord s.seq)).toOption else none

/-- The primitive of an issued row. -/
def PrimOp.prim : PrimOp → Prim
  | .enable => .enable
  | .start => .start
  | .stop => .stop
  | .write _ => .write
  | .rdAck => .rdAck
  | .rdNack => .rdNack

/-- What a primitive asks of the engine and waits for (R146, R148 to R150). -/
def Prim.request : Prim → Pend
  | .start => .start
  | .write => .tx
  | .rdAck => .rxAck
  | .rdNack => .rxNack
  | .stop | .enable => .none

/-- The two primitives that wait without a budget (R143). -/
def Prim.reception : Prim → Bool
  | .rdAck | .rdNack => true
  | .start | .stop | .write | .enable => false

/-! ### Ends and hangs -/

/-- Quiescent (70_reset_and_hazards.md R225): no command in execution, nothing requested of the engine. -/
def quiescent (s : State) : Bool := !s.port.busy && decide (s.eng.pend = .none) && !s.eng.stopReq

/-- An unguarded wait that can never end within the block's own rules (41_transport_primitives.md R143, R149,
70_reset_and_hazards.md R230): a reception is awaited, and the engine is disabled, or the bus is not open, or a requested
stop will close it first (40_bus_engine.md R120). -/
def hung (s : State) : Bool :=
  s.port.busy && s.seq.legal && decide (s.seq.phase = .issued) && s.seq.prim.reception && !s.eng.done &&
    decide (s.eng.pend = s.seq.prim.request) && (!s.eng.en || !s.eng.isOpen || s.eng.stopReq)

/-! ### Runs -/

/-- `n` steps of the machine lead from `s` to `t`. -/
def Steps (n : Nat) (s t : State) : Prop := Host.Core.run Sys2Proof.core n s = .next t

/-- `n` steps of SEQ running the instruction `i`, with no other agent between them. -/
def execMany (i : Instr) : Nat → State → Answer
  | 0, s => .next s
  | n + 1, s =>
    match exec i s with
    | .next t => execMany i n t
    | .fault f => .fault f
    | .refused r => .refused r

/-- The command `i` has just been accepted (R140). -/
def justAccepted (i : Instr) (s : State) : Prop :=
  running s = some i ∧ s.seq.phase = .idle ∧ s.seq.stepIdx = 0 ∧ s.seq.wsub = false

/-- `n` steps lead from `s` to `t`, and one more, to `u`, is the first to end the command: the block is busy until then. -/
def respondsAfter (n : Nat) (s t u : State) : Prop :=
  Steps n s t ∧ (∀ k, k ≤ n → ∀ x, Steps k s x → x.port.busy = true) ∧ Steps (n + 1) s u ∧ u.port.busy = false

/-! ### The invariant -/

/-- What every reachable state satisfies. -/
structure Inv (s : State) : Prop where
  /-- A budget is never 0 (00_scope.md R8). -/
  budgets : s.par.budgetStart ≠ 0 ∧ s.par.budgetWrite ≠ 0
  /-- A completion is reported only when nothing is pending (10_state.md R25, 30_encoding.md R93). -/
  doneMeansPerformed : s.eng.done = true → s.eng.pend = .none
  /-- The wire trace has the shape of R67, and OPEN says whether its last transaction is open (10_state.md R23). -/
  wire : wireShape s.hist.wire = some s.eng.isOpen
  /-- Both lines are released while the bus is not open, and SCL is held low while it is (20_memory.md R69, log 8). -/
  lines : (s.eng.isOpen = false → s.eng.sdaOut = true ∧ s.eng.sclOut = true) ∧ (s.eng.isOpen = true → s.eng.sclOut = false)
  /-- PHASE is Idle whenever no command is in execution (10_state.md R30), and between commands (R155). -/
  phaseBusy : s.seq.phase ≠ .idle → s.port.busy = true ∧ s.seq.legal = true
  /-- WSUB is 1 only between the two issue steps of a WRITE (10_state.md R33). -/
  wsub : s.seq.wsub = true → s.port.busy = true ∧ s.seq.legal = true ∧ s.seq.phase = .idle ∧ s.seq.prim = .write
  /-- An accepted word that is no command has executed nothing (30_encoding.md R102). -/
  illegal : s.port.busy = true → s.seq.legal = false →
    s.seq.o0 = .notRun ∧ s.seq.o1 = .notRun ∧ s.seq.o2 = .notRun ∧ s.seq.o3 = .notRun ∧ s.seq.o4 = .notRun
  /-- An accepted legal word is a command with a sequence, STEP is within it, and while a primitive is in execution it is
  the one the sequence has at STEP (R141, 10_state.md R32, R35). -/
  sequence : s.port.busy = true → s.seq.legal = true →
    ∃ i, running s = some i ∧ s.seq.stepIdx.toNat ≤ (seqOf i).length ∧
      (s.seq.phase ≠ .idle ∨ s.seq.wsub = true → ∃ row, rowAt (seqOf i) s.seq.stepIdx = some row ∧ row.op.prim = s.seq.prim)
  /-- A wait that has not seen DONE waits for its own request (R141, 40_bus_engine.md R127). -/
  awaits : s.seq.phase = .issued → s.eng.done = false → s.eng.pend = s.seq.prim.request ∧ s.seq.prim.request ≠ .none
  /-- A guarded wait still has polls left and never more than its budget (R142). -/
  counter : s.seq.phase = .issued → s.seq.prim.guarded = true →
    s.seq.cnt ≠ 0 ∧ s.seq.cnt ≤ (if s.seq.prim = .start then s.par.budgetStart else s.par.budgetWrite)
  /-- Only a guarded wait ends TimedOut (R142, R143). -/
  timedOut : s.seq.phase = .timedOut → s.seq.prim.guarded = true
  /-- RSP holds the last response delivered (10_state.md R37). -/
  response : s.hist.rsps ≠ [] → s.hist.rsps.getLast? = some s.port.rsp
  /-- The reference device's registers are in canonical form. -/
  device : ∀ d, s.inp.device = some d → d.mem.wf = true

end Sys2Proof.Machine
end

