-- ==== Sys2Proof/Certificates/Slice0/Obligations.lean ====
section
/-! DEFINITION. The statements for the provers. The helpers under `Sys2Proof.Claims` are written out from the spec's rules
and use none of the model's own operations, so that a statement compares the model with the rule and not with itself. -/

namespace Sys2Proof.Claims

open Sys2Proof Sys2Proof.Machine

/-! ### Literal helpers -/

/-- Nothing of the block, its histories or its parameters differs: only what stands outside the block may. -/
def sameBlock (s t : State) : Prop :=
  t.eng = s.eng ∧ t.seq = s.seq ∧ t.port = s.port ∧ t.hist = s.hist ∧ t.par = s.par

/-- The primitive invocations of a command, in order (R152 with the sequences of R141 and R170). -/
def callsOf : Instr → List PrimCall
  | .enable => []
  | .start => [.start]
  | .stop => [.stop]
  | .write b => [.writeByte b]
  | .rdAck => [.readByteAck]
  | .rdNack => [.readByteNack]
  | .wreg a r v => [.start, .writeByte (a ++ 0#1), .writeByte r, .writeByte v, .stop]
  | .rdw a r =>
    [.start, .writeByte (a ++ 0#1), .writeByte r, .start, .writeByte (a ++ 1#1), .readByteAck, .readByteNack, .stop]
  | .probe a => [.start, .writeByte (a ++ 0#1)]
  | .eStart _ | .eStop _ | .eTx _ | .eRxAck _ | .eRxNack _ | .ctlEnset => []

/-- How many steps a command's sequence has (R141, R170). -/
def lengthOf : Instr → Nat
  | .enable | .start | .stop | .write _ | .rdAck | .rdNack => 1
  | .wreg _ _ _ => 5
  | .rdw _ _ => 8
  | .probe _ => 2
  | .eStart _ | .eStop _ | .eTx _ | .eRxAck _ | .eRxNack _ | .ctlEnset => 0

/-- The primitive of each step of a command's sequence (R141, R170). -/
def primAt : Instr → Nat → Option Prim
  | .enable, 0 => some .enable
  | .start, 0 => some .start
  | .stop, 0 => some .stop
  | .write _, 0 => some .write
  | .rdAck, 0 => some .rdAck
  | .rdNack, 0 => some .rdNack
  | .wreg _ _ _, 0 => some .start
  | .wreg _ _ _, 1 => some .write
  | .wreg _ _ _, 2 => some .write
  | .wreg _ _ _, 3 => some .write
  | .wreg _ _ _, 4 => some .stop
  | .rdw _ _, 0 => some .start
  | .rdw _ _, 1 => some .write
  | .rdw _ _, 2 => some .write
  | .rdw _ _, 3 => some .start
  | .rdw _ _, 4 => some .write
  | .rdw _ _, 5 => some .rdAck
  | .rdw _ _, 6 => some .rdNack
  | .rdw _ _, 7 => some .stop
  | .probe _, 0 => some .start
  | .probe _, 1 => some .write
  | _, _ => none

/-- A slot written (R13 `report`), by its number; `none` writes nothing. -/
def setSlot (k : Option Nat) (o : StepOutcome) (q : Seqr) : Seqr :=
  match k with
  | some 0 => { q with o0 := o }
  | some 1 => { q with o1 := o }
  | some 2 => { q with o2 := o }
  | some 3 => { q with o3 := o }
  | some 4 => { q with o4 := o }
  | _ => q

/-- The slot a step reports into (R141, R170). -/
def slotAt : Instr → Nat → Option Nat
  | .enable, 0 | .start, 0 | .stop, 0 | .write _, 0 | .rdAck, 0 | .rdNack, 0 => some 0
  | .wreg _ _ _, 0 | .rdw _ _, 0 | .probe _, 0 => some 0
  | .wreg _ _ _, 1 | .rdw _ _, 1 | .probe _, 1 => some 1
  | .wreg _ _ _, 2 | .rdw _ _, 2 => some 2
  | .wreg _ _ _, 3 | .rdw _ _, 3 => some 3
  | .rdw _ _, 4 => some 4
  | _, _ => none

/-- Whether a step latches a received byte into HI, and whether into LO (R149, R150, R170). -/
def latchesHi : Instr → Nat → Bool
  | .rdAck, 0 | .rdNack, 0 | .rdw _ _, 5 => true
  | _, _ => false

def latchesLo : Instr → Nat → Bool
  | .rdw _ _, 6 => true
  | _, _ => false

/-- The outcome of the primitive in execution (R145 to R150). -/
def outcome (s : State) : StepOutcome :=
  match s.seq.prim, s.seq.phase with
  | .start, .timedOut => .timeout
  | .write, .timedOut => .timeout
  | .write, _ => if s.eng.acked then .ok else .nack
  | _, _ => .ok

/-- The two-bit code of an outcome (R99). -/
def code : StepOutcome → BitVec 2
  | .ok => 0b00#2
  | .timeout => 0b01#2
  | .nack => 0b10#2
  | .notRun => 0b11#2

/-- TIMEOUT or NACK. -/
def isFailure (o : StepOutcome) : Bool := code o == 0b01#2 || code o == 0b10#2

/-- A response word from its fields (R100). -/
def response (ill : Bool) (o0 o1 o2 o3 o4 : StepOutcome) (d : BitVec 16) : RspWord :=
  BitVec.ofBool ill ++ BitVec.ofBool (isFailure o0 || isFailure o1 || isFailure o2 || isFailure o3 || isFailure o4) ++
    0#4 ++ code o4 ++ code o3 ++ code o2 ++ code o1 ++ code o0 ++ d

/-- The result data of a command (R101). -/
def resultData (i : Instr) (q : Seqr) : BitVec 16 :=
  match i with
  | .rdAck | .rdNack => 0#8 ++ q.hi
  | .rdw _ _ => q.hi ++ q.lo
  | .probe _ => if q.o0 = .ok ∧ q.o1 = .ok then 1#16 else 0#16
  | _ => 0#16

/-- STAT as SEQ reads it (R94). -/
def statByte (s : State) : Byte := BitVec.ofBool s.eng.done ++ BitVec.ofBool s.eng.acked ++ 0#6

/-! ### What an issue step makes of a state (R145 to R150, R93, R154) -/

def afterEnable (s : State) : State :=
  { s with
    eng := { s.eng with en := true }
    seq := { s.seq with prim := .enable, phase := .completed }
    hist := { s.hist with regs := s.hist.regs ++ [.ctrlWrite 0x80#8] } }

def afterStart (s : State) : State :=
  { s with
    eng := { s.eng with done := false, pend := .start }
    seq := { s.seq with prim := .start, cnt := s.par.budgetStart, phase := .issued }
    hist := { s.hist with prims := s.hist.prims ++ [.start], regs := s.hist.regs ++ [.ctrlWrite 0x01#8] } }

def afterStop (s : State) : State :=
  { s with
    eng := { s.eng with done := false, pend := .none, stopReq := true }
    seq := { s.seq with prim := .stop, phase := .completed }
    hist := { s.hist with prims := s.hist.prims ++ [.stop], regs := s.hist.regs ++ [.ctrlWrite 0x02#8] } }

def afterLoad (b : Byte) (s : State) : State :=
  { s with
    eng := { s.eng with data := b }
    seq := { s.seq with prim := .write, pbyte := b, wsub := true }
    hist := { s.hist with prims := s.hist.prims ++ [.writeByte b], regs := s.hist.regs ++ [.dataWrite b] } }

def afterTrigger (s : State) : State :=
  { s with
    eng := { s.eng with done := false, pend := .tx }
    seq := { s.seq with cnt := s.par.budgetWrite, wsub := false, phase := .issued }
    hist := { s.hist with regs := s.hist.regs ++ [.ctrlWrite 0x03#8] } }

def afterRdAck (s : State) : State :=
  { s with
    eng := { s.eng with done := false, pend := .rxAck }
    seq := { s.seq with prim := .rdAck, phase := .issued }
    hist := { s.hist with prims := s.hist.prims ++ [.readByteAck], regs := s.hist.regs ++ [.ctrlWrite 0x04#8] } }

def afterRdNack (s : State) : State :=
  { s with
    eng := { s.eng with done := false, pend := .rxNack }
    seq := { s.seq with prim := .rdNack, phase := .issued }
    hist := { s.hist with prims := s.hist.prims ++ [.readByteNack], regs := s.hist.regs ++ [.ctrlWrite 0x05#8] } }

/-- A WRITE step of a sequence has two issue steps (R148). -/
def writeIssues (i : Instr) (b : Byte) (s : State) : Prop :=
  (s.seq.wsub = false → exec i s = .next (afterLoad b s)) ∧ (s.seq.wsub = true → exec i s = .next (afterTrigger s))

/-- A command is at the issue step of its step `k` (R141). -/
def atIssue (s : State) (k : BitVec 4) : Prop := s.port.busy = true ∧ s.seq.phase = .idle ∧ s.seq.stepIdx = k

/-! ### The primitives issued so far (R141, R152) -/

/-- The command `i` is in execution, and PRIMS is `base` and the calls of the steps before STEP, with that of STEP itself if
its (first) issue step has been taken. -/
def issuedSoFar (base : List PrimCall) (i : Instr) (s : State) : Prop :=
  running s = some i ∧ s.seq.stepIdx.toNat ≤ lengthOf i ∧
  (s.seq.phase ≠ .idle → s.seq.stepIdx.toNat < lengthOf i) ∧
  (s.seq.wsub = true → s.seq.phase = .idle ∧ primAt i s.seq.stepIdx.toNat = some .write) ∧
  s.hist.prims = base ++
    (callsOf i).take (s.seq.stepIdx.toNat + if s.seq.phase ≠ .idle ∨ s.seq.wsub = true then 1 else 0)

/-! ### Prompt runs -/

/-- A guarded or unguarded primitive served at once: issue, ENG, poll, retire. -/
def promptPrim : List Agent := [.seq, .eng, .seq, .seq]
/-- A WRITE served at once: two issue steps, ENG, poll, retire. -/
def promptWrite : List Agent := [.seq, .seq, .eng, .seq, .seq]
/-- A STOP performed at once: issue, ENG, retire. -/
def promptStop : List Agent := [.seq, .eng, .seq]

end Sys2Proof.Claims

open Sys2Proof Sys2Proof.Machine Sys2Proof.Claims

/-! ## Encodings -/

/-- R106: the worked encodings and the worked responses. -/
def Obligations.WorkedEncodings : Prop :=
  (decode (.cmd 0x80686B00#32) = .instr (.wreg 0x68#7 0x6B#8 0x00#8) ∧
    decode (.cmd 0x80681907#32) = .instr (.wreg 0x68#7 0x19#8 0x07#8) ∧
    decode (.cmd 0x90683B00#32) = .instr (.rdw 0x68#7 0x3B#8) ∧
    decode (.cmd 0x90684700#32) = .instr (.rdw 0x68#7 0x47#8) ∧
    decode (.cmd 0xA0680000#32) = .instr (.probe 0x68#7) ∧
    decode (.cmd 0x400000D0#32) = .instr (.write 0xD0#8) ∧
    decode (.cmd 0x400000D1#32) = .instr (.write 0xD1#8)) ∧
  (encode (.wreg 0x68#7 0x6B#8 0x00#8) = .cmd 0x80686B00#32 ∧ encode (.wreg 0x68#7 0x19#8 0x07#8) = .cmd 0x80681907#32 ∧
    encode (.rdw 0x68#7 0x3B#8) = .cmd 0x90683B00#32 ∧ encode (.rdw 0x68#7 0x47#8) = .cmd 0x90684700#32 ∧
    encode (.probe 0x68#7) = .cmd 0xA0680000#32 ∧ encode (.write 0xD0#8) = .cmd 0x400000D0#32 ∧
    encode (.write 0xD1#8) = .cmd 0x400000D1#32) ∧
  (∀ q : Seqr, q.o1 = .notRun → q.o2 = .notRun → q.o3 = .notRun → q.o4 = .notRun →
    (q.o0 = .ok → rspWord false q 0#16 = 0x03FC0000#32) ∧ (q.o0 = .timeout → rspWord false q 0#16 = 0x43FD0000#32) ∧
    (q.o0 = .nack → rspWord false q 0#16 = 0x43FE0000#32) ∧ (q.o0 = .notRun → rspWord true q 0#16 = 0x83FF0000#32)) ∧
  (∀ q : Seqr, q.o0 = .ok → q.o1 = .ok → q.o2 = .ok → q.o3 = .ok →
    (q.o4 = .notRun → rspWord false q 0#16 = 0x03000000#32) ∧
    (q.o4 = .ok → q.hi = 0x01#8 → q.lo = 0x02#8 → rspWord false q (dataWord q) = 0x00000102#32)) ∧
  (∀ q : Seqr, q.o0 = .ok → q.o2 = .notRun → q.o3 = .notRun → q.o4 = .notRun →
    (q.o1 = .ok → rspWord false q (dataAlive q) = 0x03F00001#32) ∧
    (q.o1 = .nack → rspWord false q (dataAlive q) = 0x43F80000#32))

/-- Every instruction's word decodes to it, with every operand at every value (30_encoding.md sections 1 and 2). -/
def Obligations.DecodeEncodeAgree : Prop := ∀ i : Instr, i.wf = true → decode (encode i) = .instr i

/-- A word that decodes is the word of what it decodes to: no bit of it is dropped (30_encoding.md sections 1, 2, 4). -/
def Obligations.EncodeDecodeAgree : Prop := ∀ (x : IfaceWord) (i : Instr), decode x = .instr i → encode i = x

/-- R97: a word is a command iff it matches the command's row; the bits outside the mask are its operand fields. -/
def Obligations.CommandWordIffMatch : Prop :=
  (∀ (w m k : CmdWord) (i : Instr), i.cmdPattern = some (m, k) →
    ((∃ j, decodeCmd w = .instr j ∧ j.mnemonic = i.mnemonic) ↔ w &&& k = m)) ∧
  (∀ (w : CmdWord) (b : Byte), decodeCmd w = .instr (.write b) → b = w.extractLsb' 0 8) ∧
  (∀ (w : CmdWord) (a : Addr) (r v : Byte), decodeCmd w = .instr (.wreg a r v) →
    a = w.extractLsb' 16 7 ∧ r = w.extractLsb' 8 8 ∧ v = w.extractLsb' 0 8) ∧
  (∀ (w : CmdWord) (a : Addr) (r : Byte), decodeCmd w = .instr (.rdw a r) → a = w.extractLsb' 16 7 ∧ r = w.extractLsb' 8 8) ∧
  (∀ (w : CmdWord) (a : Addr), decodeCmd w = .instr (.probe a) → a = w.extractLsb' 16 7) ∧
  (∀ w : CmdWord, w.extractLsb' 28 4 ∈ [0x0#4, 0x7#4, 0xB#4, 0xC#4, 0xD#4, 0xE#4, 0xF#4] → ∀ i, decodeCmd w ≠ .instr i) ∧
  (∀ (w : CmdWord) (i : Instr), decodeCmd w = .instr i →
    (w.getLsbD 31 = true ↔ i.mnemonic = "WREG" ∨ i.mnemonic = "RDW" ∨ i.mnemonic = "PROBE"))

/-- The CTRL8 rows of the opcode table: a word is the operation iff it matches, and its ENSET operand is bit 7
(30_encoding.md R91, R92). -/
def Obligations.ControlWordIffMatch : Prop :=
  ∀ (w m k : Byte) (i : Instr), i.ctlPattern = some (m, k) →
    ((∃ j, decodeCtl w = .instr j ∧ j.mnemonic = i.mnemonic) ↔ w &&& k = m) ∧
    (∀ j, decodeCtl w = .instr j → encode j = .ctl w)

/-- R102: what is legal, and that a word that is not is answered at once with `0x83FF0000` and executes nothing. -/
def Obligations.IllegalWordAnswered : Prop :=
  (∀ w : CmdWord, legalCmd w = true ↔ ∃ (i : Instr) (m k : CmdWord), i.cmdPattern = some (m, k) ∧ w &&& k = m) ∧
  (∀ w : CmdWord, w.extractLsb' 28 4 ∈ [0x0#4, 0x7#4, 0xB#4, 0xC#4, 0xD#4, 0xE#4, 0xF#4] → legalCmd w = false) ∧
  (∀ (w : CmdWord) (s : State) (rest : List HostMove) (as : List Agent), legalCmd w = false → s.port.busy = false →
    s.inp.hostIn = .command w :: rest → s.inp.sched = .host :: .seq :: as →
    ∃ t, Steps 2 s t ∧ t.eng = s.eng ∧ t.port = { busy := false, rsp := 0x83FF0000#32 } ∧
      t.hist = { s.hist with rsps := s.hist.rsps ++ [0x83FF0000#32] } ∧ t.par = s.par ∧
      t.seq.cnt = s.seq.cnt ∧ t.seq.prim = s.seq.prim ∧ t.seq.pbyte = s.seq.pbyte ∧ t.seq.hi = s.seq.hi ∧
      t.seq.lo = s.seq.lo ∧ t.seq.phase = .idle ∧ t.seq.stepIdx = 0)

/-- 30_encoding.md R104, R105: the assembler refuses a value outside its range, gives each mnemonic form the word of the
table, RSTART the word of START, and WADDR the word of the WRITE of the address byte. -/
def Obligations.AssemblerWords : Prop :=
  (∀ l : AsmLine, l.wf = false → asmWord l = none) ∧ (∀ l : AsmLine, l.wf = true → (asmWord l).isSome = true) ∧
  asmWord .enable = some (.cmd 0x10000000#32) ∧ asmWord .start = some (.cmd 0x20000000#32) ∧
  asmWord .stop = some (.cmd 0x30000000#32) ∧ asmWord .rdAck = some (.cmd 0x50000000#32) ∧
  asmWord .rdNack = some (.cmd 0x60000000#32) ∧ asmWord .rstart = asmWord .start ∧
  (∀ a : Addr, asmWord (.waddr a.toNat false) = some (.cmd (0x400000#24 ++ (a ++ 0#1))) ∧
    asmWord (.waddr a.toNat true) = some (.cmd (0x400000#24 ++ (a ++ 1#1)))) ∧
  (∀ (a : Addr) (r v : Byte), asmWord (.wreg a.toNat r.toNat v.toNat) = some (.cmd (0x80#8 ++ 0#1 ++ a ++ r ++ v))) ∧
  (∀ (a : Addr) (r : Byte), asmWord (.rdw a.toNat r.toNat) = some (.cmd (0x90#8 ++ 0#1 ++ a ++ r ++ 0#8))) ∧
  (∀ a : Addr, asmWord (.probe a.toNat) = some (.cmd (0xA0#8 ++ 0#1 ++ a ++ 0#16))) ∧
  (∀ b : Byte, asmWord (.write b.toNat) = some (.cmd (0x400000#24 ++ b)))

/-! ## Operand forms and flags -/

/-- R14: the direction constants and the address byte. -/
def Obligations.AddressByteForms : Prop :=
  dirWrite = 0#1 ∧ dirRead = 1#1 ∧ (∀ (a : Addr) (d : BitVec 1), addrByte a d = (a.zeroExtend 8 <<< 1) ||| d.zeroExtend 8) ∧
  addrByte 0x68#7 dirWrite = 0xD0#8 ∧ addrByte 0x68#7 dirRead = 0xD1#8

/-- 42_register_access.md R173 with 20_memory.md R64: the 16-bit result is big-endian and two's complement. -/
def Obligations.WordIsBigEndianSigned : Prop :=
  ∀ hi lo : Byte, toSigned16 (wordOf hi lo) =
    if hi.toNat < 0x80 then 256 * (hi.toNat : Int) + lo.toNat else 256 * (hi.toNat : Int) + lo.toNat - 65536

/-- 30_encoding.md R94: DONE is STAT[7], ACKED is STAT[6], the rest reads 0, and reading changes no part of the block. -/
def Obligations.StatusRegisterLayout : Prop :=
  ∀ s : State, (statWord s.eng).getLsbD 7 = s.eng.done ∧ (statWord s.eng).getLsbD 6 = s.eng.acked ∧
    (statWord s.eng).extractLsb' 0 6 = 0#6 ∧
    traceStat s = { s with hist := { s.hist with regs := s.hist.regs ++ [.statRead (statByte s)] } }

/-- R100: the fields of the response word. -/
def Obligations.ResponseWordLayout : Prop :=
  ∀ (ill : Bool) (q : Seqr) (d : BitVec 16),
    (rspWord ill q d).getLsbD 31 = ill ∧
    ((rspWord ill q d).getLsbD 30 = true ↔ ∃ o ∈ [q.o0, q.o1, q.o2, q.o3, q.o4], o = .timeout ∨ o = .nack) ∧
    (rspWord ill q d).extractLsb' 26 4 = 0#4 ∧ (rspWord ill q d).extractLsb' 24 2 = code q.o4 ∧
    (rspWord ill q d).extractLsb' 22 2 = code q.o3 ∧ (rspWord ill q d).extractLsb' 20 2 = code q.o2 ∧
    (rspWord ill q d).extractLsb' 18 2 = code q.o1 ∧ (rspWord ill q d).extractLsb' 16 2 = code q.o0 ∧
    (rspWord ill q d).extractLsb' 0 16 = d

/-! ## The bus engine -/

/-- R93: the effect of every write of CTRL with a code the rule gives an effect, in one step: EN, DONE, PEND and STOPREQ as
the rule says, everything else of the engine as it was, and nothing else of the block but the register trace. -/
def Obligations.TriggerWriteEffect : Prop :=
  (∀ (enset : Bool) (s : State), (ctlWrite enset .none s).eng = { s.eng with en := s.eng.en || enset } ∧
    (ctlWrite enset .stop s).eng = { s.eng with en := s.eng.en || enset, done := false, pend := .none, stopReq := true } ∧
    (ctlWrite enset .start s).eng = { s.eng with en := s.eng.en || enset, done := false, pend := .start } ∧
    (ctlWrite enset .tx s).eng = { s.eng with en := s.eng.en || enset, done := false, pend := .tx } ∧
    (ctlWrite enset .rxAck s).eng = { s.eng with en := s.eng.en || enset, done := false, pend := .rxAck } ∧
    (ctlWrite enset .rxNack s).eng = { s.eng with en := s.eng.en || enset, done := false, pend := .rxNack }) ∧
  (∀ (enset : Bool) (op : CtlOp) (s : State), (ctlWrite enset op s).seq = s.seq ∧ (ctlWrite enset op s).port = s.port ∧
    (ctlWrite enset op s).inp = s.inp ∧ (ctlWrite enset op s).par = s.par ∧ (ctlWrite enset op s).hist.wire = s.hist.wire ∧
    (ctlWrite enset op s).hist.prims = s.hist.prims ∧ (ctlWrite enset op s).hist.rsps = s.hist.rsps)

/-- 30_encoding.md section 1, 93_implementation_defined.md U1: a CTRL word with a reserved operation code, or with a bit of the
reserved field set, is refused by name by the decoder, whatever its ENSET bit, and no step of the machine writes one:
whatever a step writes to CTRL is a word the decoder reads. -/
def Obligations.ReservedControlWordRefused : Prop :=
  (∀ w : Byte,
    (w.extractLsb' 3 4 = 0#4 → (w.extractLsb' 0 3 = 0b110#3 ∨ w.extractLsb' 0 3 = 0b111#3) →
      decodeCtl w = .bad .reservedCtrlOp) ∧
    (w.extractLsb' 3 4 ≠ 0#4 → decodeCtl w = .bad .reservedCtrlBits)) ∧
  (∀ s t : State, step s = .next t → ∃ xs, t.hist.regs = s.hist.regs ++ xs ∧
    ∀ w, RegAccess.ctrlWrite w ∈ xs → ∃ i, decodeCtl w = .instr i)

/-- 20_memory.md section 1, 30_encoding.md section 1, 60_exceptions.md section 6: the engine registers are reached by SEQ only.
A step that accesses one is a SEQ turn with a command in execution; one that writes one is at an issue step, and a word
written to CTRL is one of the six that the issue steps have; a HOST turn leaves the engine as it was. What an entry of
the register trace holds is the model's choice (log 15). -/
def Obligations.OnlySequencerReachesRegisters : Prop :=
  ∀ s t : State, step s = .next t →
    (t.inp.turn = .host → t.eng = s.eng) ∧
    ∃ xs, t.hist.regs = s.hist.regs ++ xs ∧
      (xs ≠ [] → t.inp.turn = .seq ∧ s.port.busy = true ∧ running s ≠ none) ∧
      (∀ w, RegAccess.ctrlWrite w ∈ xs → s.seq.phase = .idle ∧ w ∈ [0x80#8, 0x01#8, 0x02#8, 0x03#8, 0x04#8, 0x05#8]) ∧
      (∀ b, RegAccess.dataWrite b ∈ xs → s.seq.phase = .idle)

/-- 40_bus_engine.md section 2, 30_encoding.md R93: on a turn that is not ENG's (log 7), an engine operation's word is the
write that requests it, and CTL_ENSET sets EN and nothing else. -/
def Obligations.EngineWordsRequest : Prop :=
  ∀ (e : Bool) (s : State), s.inp.turn ≠ .eng →
    (exec (.eStart e) s = .next { s with eng := { s.eng with en := s.eng.en || e, done := false, pend := .start }, hist := { s.hist with regs := s.hist.regs ++ [.ctrlWrite (BitVec.ofBool e ++ 0x01#7)] } }) ∧
    (exec (.eStop e) s = .next { s with eng := { s.eng with en := s.eng.en || e, done := false, pend := .none, stopReq := true }, hist := { s.hist with regs := s.hist.regs ++ [.ctrlWrite (BitVec.ofBool e ++ 0x02#7)] } }) ∧
    (exec (.eTx e) s = .next { s with eng := { s.eng with en := s.eng.en || e, done := false, pend := .tx }, hist := { s.hist with regs := s.hist.regs ++ [.ctrlWrite (BitVec.ofBool e ++ 0x03#7)] } }) ∧
    (exec (.eRxAck e) s = .next { s with eng := { s.eng with en := s.eng.en || e, done := false, pend := .rxAck }, hist := { s.hist with regs := s.hist.regs ++ [.ctrlWrite (BitVec.ofBool e ++ 0x04#7)] } }) ∧
    (exec (.eRxNack e) s = .next { s with eng := { s.eng with en := s.eng.en || e, done := false, pend := .rxNack }, hist := { s.hist with regs := s.hist.regs ++ [.ctrlWrite (BitVec.ofBool e ++ 0x05#7)] } }) ∧
    (exec .ctlEnset s = .next { s with eng := { s.eng with en := true }, hist := { s.hist with regs := s.hist.regs ++ [.ctrlWrite 0x80#8] } })

/-- 40_bus_engine.md section 2, E_START: performed on an ENG turn, whole, and what else it leaves as it was. The line levels
are the model's choice (log 8), and so is that a reference device keeps its mode through S or Sr, until the address byte
it then awaits (log 9). -/
def Obligations.StartPerformed : Prop :=
  ∀ (e : Bool) (s : State), s.inp.turn = .eng → s.eng.en = true → s.eng.stopReq = false → s.eng.pend = .start →
    (drawReady s).1 = true →
    exec (.eStart e) s = .next { s with
      eng := { s.eng with isOpen := true, pend := .none, done := true, sdaOut := false, sclOut := false }
      hist := { s.hist with wire := s.hist.wire ++ [if s.eng.isOpen then .sr else .s] }
      inp := { (drawReady s).2.inp with device := s.inp.device.map fun d => { d with awaitAddr := true } } }

/-- 40_bus_engine.md section 2, E_STOP: with the bus open it emits P; with the bus not open it emits nothing and only drops
the request; DONE and PEND do not change. The line levels are the model's choice (log 8), and so is that a reference device
holds as a bit that an address byte is awaited, which P clears (log 9). -/
def Obligations.StopPerformed : Prop :=
  ∀ (e : Bool) (s : State), s.inp.turn = .eng → s.eng.en = true → s.eng.stopReq = true → (drawReady s).1 = true →
    (s.eng.isOpen = true → exec (.eStop e) s = .next { s with
      eng := { s.eng with isOpen := false, stopReq := false, sdaOut := true, sclOut := true }
      hist := { s.hist with wire := s.hist.wire ++ [.p] }
      inp := { (drawReady s).2.inp with device := s.inp.device.map fun d => { d with mode := .idle, awaitAddr := false } } }) ∧
    (s.eng.isOpen = false → exec (.eStop e) s = .next { s with
      eng := { s.eng with stopReq := false }
      inp := (drawReady s).2.inp })

/-- 40_bus_engine.md section 2, E_TX: the byte in DATA goes out, ACKED takes the acknowledgement Env draws, DATA does not
change. The acknowledgement is a free value or a scripted one: the statement holds for each. The line levels are the
model's choice (log 8). -/
def Obligations.TransmitPerformed : Prop :=
  ∀ (e : Bool) (s : State), s.inp.turn = .eng → s.eng.en = true → s.eng.stopReq = false → s.eng.pend = .tx →
    s.eng.isOpen = true → (drawReady s).1 = true →
    ∃ (a : Bool) (t : State), a = (drawAck s.eng.data (drawReady s).2).1 ∧ exec (.eTx e) s = .next t ∧
      t.eng = { s.eng with acked := a, pend := .none, done := true, sdaOut := true, sclOut := false } ∧
      t.hist = { s.hist with wire := s.hist.wire ++ [.tx s.eng.data a] } ∧ t.seq = s.seq ∧ t.port = s.port ∧ t.par = s.par ∧
      t.inp = { (drawAck s.eng.data (drawReady s).2).2.inp with
        device := s.inp.device.map fun d => d.observe (.tx s.eng.data a) }

/-- 40_bus_engine.md section 2, E_RX_ACK and E_RX_NACK: DATA takes the byte Env draws, the answer is the operation's policy,
ACKED does not change. The line levels are the model's choice (log 8). -/
def Obligations.ReceptionPerformed : Prop :=
  ∀ (e : Bool) (s : State), s.inp.turn = .eng → s.eng.en = true → s.eng.stopReq = false → s.eng.isOpen = true →
    (drawReady s).1 = true →
    (s.eng.pend = .rxAck → ∃ (b : Byte) (t : State), b = (drawByte (drawReady s).2).1 ∧ exec (.eRxAck e) s = .next t ∧
      t.eng = { s.eng with data := b, pend := .none, done := true, sdaOut := false, sclOut := false } ∧
      t.hist = { s.hist with wire := s.hist.wire ++ [.rx b .ack] } ∧ t.seq = s.seq ∧ t.port = s.port ∧ t.par = s.par ∧
      t.inp = { (drawByte (drawReady s).2).2.inp with device := s.inp.device.map fun d => d.observe (.rx b .ack) }) ∧
    (s.eng.pend = .rxNack → ∃ (b : Byte) (t : State), b = (drawByte (drawReady s).2).1 ∧ exec (.eRxNack e) s = .next t ∧
      t.eng = { s.eng with data := b, pend := .none, done := true, sdaOut := true, sclOut := false } ∧
      t.hist = { s.hist with wire := s.hist.wire ++ [.rx b .nack] } ∧ t.seq = s.seq ∧ t.port = s.port ∧ t.par = s.par ∧
      t.inp = { (drawByte (drawReady s).2).2.inp with device := s.inp.device.map fun d => d.observe (.rx b .nack) })

/-- 40_bus_engine.md section 1 and section 3: an ENG turn is a step of the engine only if it is enabled and Env is ready;
otherwise nothing of the block changes, whatever the operation, and in particular while `EN = 0`, while nothing is
requested, and for a byte operation on a bus that is not open. -/
def Obligations.EngineWaitsUntilEnabled : Prop :=
  ∀ (s : State) (as : List Agent), s.inp.sched = .eng :: as →
    (s.eng.en = false ∨ (s.eng.stopReq = false ∧ s.eng.pend = .none) ∨
      (s.eng.stopReq = false ∧ s.eng.isOpen = false ∧ s.eng.pend ≠ .start) ∨
      (drawReady { s with inp := { s.inp with turn := .eng, sched := as, tick := s.inp.tick + 1 } }).1 = false) →
    ∃ t, step s = .next t ∧ sameBlock s t

/-- 40_bus_engine.md R128: an engine operation touches neither the sequencer, nor the latches, nor the response, nor any
history but the wire trace, and appends at most one event to that. -/
def Obligations.EngineTouchesOnlyEngine : Prop :=
  ∀ (i : Instr) (s t : State), i.ctlPattern ≠ none → i ≠ .ctlEnset → s.inp.turn = .eng → exec i s = .next t →
    t.seq = s.seq ∧ t.port = s.port ∧ t.par = s.par ∧ (∃ w, w.length ≤ 1 ∧ t.hist = { s.hist with wire := s.hist.wire ++ w }) ∧
    t.eng.en = s.eng.en

/-! ## Steps -/

/-- A step runs the decoded instruction: a SEQ turn the command whose word the latches hold, and an ENG turn the operation
requested, a stop first, whatever the ENSET bit of the word that requested it (R141, R120). An issue step that writes CTRL
runs the instruction of that CTRL word as well: SEQ's own record of the issue is all it adds (R145 to R150). That an
engine word's meaning on a turn not ENG's is its write is the model's choice (log 7); that WRITE's second issue step leaves
PRIM and PBYTE alone is read by inference (log 20). -/
def Obligations.StepRunsDecodedInstruction : Prop :=
  (∀ (s : State) (i : Instr) (as : List Agent), s.inp.sched = .seq :: as → s.port.busy = true → s.seq.legal = true →
    decodeCmd (s.seq.opc ++ 0#5 ++ s.seq.addr ++ s.seq.reg ++ s.seq.val) = .instr i →
    let u : State := { s with inp := { s.inp with turn := .seq, sched := as, tick := s.inp.tick + 1 } }
    step s = exec i u ∧
    (s.seq.phase = .idle →
      (primAt i s.seq.stepIdx.toNat = some .enable →
        step s = exec .ctlEnset { u with seq := { u.seq with prim := .enable, phase := .completed } }) ∧
      (primAt i s.seq.stepIdx.toNat = some .start →
        step s = exec (.eStart false) { u with
          seq := { u.seq with prim := .start, cnt := u.par.budgetStart, phase := .issued }
          hist := { u.hist with prims := u.hist.prims ++ [.start] } }) ∧
      (primAt i s.seq.stepIdx.toNat = some .stop →
        step s = exec (.eStop false) { u with
          seq := { u.seq with prim := .stop, phase := .completed }
          hist := { u.hist with prims := u.hist.prims ++ [.stop] } }) ∧
      (primAt i s.seq.stepIdx.toNat = some .write → s.seq.wsub = true →
        step s = exec (.eTx false) { u with
          seq := { u.seq with cnt := u.par.budgetWrite, wsub := false, phase := .issued } }) ∧
      (primAt i s.seq.stepIdx.toNat = some .rdAck →
        step s = exec (.eRxAck false) { u with
          seq := { u.seq with prim := .rdAck, phase := .issued }
          hist := { u.hist with prims := u.hist.prims ++ [.readByteAck] } }) ∧
      (primAt i s.seq.stepIdx.toNat = some .rdNack →
        step s = exec (.eRxNack false) { u with
          seq := { u.seq with prim := .rdNack, phase := .issued }
          hist := { u.hist with prims := u.hist.prims ++ [.readByteNack] } }))) ∧
  (∀ (s : State) (as : List Agent) (e : Bool), s.inp.sched = .eng :: as →
    let u : State := { s with inp := { s.inp with turn := .eng, sched := as, tick := s.inp.tick + 1 } }
    (s.eng.stopReq = true → step s = exec (.eStop e) u) ∧
    (s.eng.stopReq = false → s.eng.pend = .start → step s = exec (.eStart e) u) ∧
    (s.eng.stopReq = false → s.eng.pend = .tx → step s = exec (.eTx e) u) ∧
    (s.eng.stopReq = false → s.eng.pend = .rxAck → step s = exec (.eRxAck e) u) ∧
    (s.eng.stopReq = false → s.eng.pend = .rxNack → step s = exec (.eRxNack e) u))

/-- R140: the accept step: enabled iff `BUSY = 0`, all its effects in one step; while `BUSY = 1` nothing is accepted and the
latched operands do not change; a word that is not legal is answered by the next SEQ step. -/
def Obligations.AcceptStep : Prop :=
  (∀ (s : State) (w : CmdWord) (rest : List HostMove) (as : List Agent), s.inp.sched = .host :: as →
    s.inp.hostIn = .command w :: rest →
    (s.port.busy = false → step s = .next { s with
      port := { s.port with busy := true }
      seq := { s.seq with
        opc := w.extractLsb' 28 4, addr := w.extractLsb' 16 7, reg := w.extractLsb' 8 8, val := w.extractLsb' 0 8,
        o0 := .notRun, o1 := .notRun, o2 := .notRun, o3 := .notRun, o4 := .notRun,
        stepIdx := 0, phase := .idle, wsub := false, legal := legalCmd w }
      inp := { s.inp with turn := .host, sched := as, tick := s.inp.tick + 1, hostIn := rest } }) ∧
    (s.port.busy = true → ∃ t, step s = .next t ∧ sameBlock s t ∧ t.inp.hostIn = s.inp.hostIn)) ∧
  (∀ s t : State, s.port.busy = true → step s = .next t →
    t.seq.opc = s.seq.opc ∧ t.seq.addr = s.seq.addr ∧ t.seq.reg = s.seq.reg ∧ t.seq.val = s.seq.val ∧
      t.seq.legal = s.seq.legal) ∧
  (∀ (s : State) (as : List Agent), s.inp.sched = .seq :: as → s.port.busy = true → s.seq.legal = false →
    ∃ t, step s = .next t ∧ t.port.busy = false ∧ t.port.rsp.getLsbD 31 = true ∧ t.eng = s.eng ∧ t.seq = s.seq ∧
      t.hist.wire = s.hist.wire ∧ t.hist.prims = s.hist.prims ∧ t.hist.regs = s.hist.regs)

/-- 10_state.md R37 and 00_scope.md R9: the host takes the response RSP holds once the command has finished, and a read of
RSP before the first response is a fault. That `rsps` empty stands for "no response yet", and that the host waits while
`BUSY = 1`, are the model's choice (log 10). -/
def Obligations.ResponseTaken : Prop :=
  ∀ (s : State) (rest : List HostMove) (as : List Agent), s.inp.sched = .host :: as → s.inp.hostIn = .takeResponse :: rest →
    s.port.busy = false →
    (s.hist.rsps = [] → step s = .fault .responseUnwritten) ∧
    (s.hist.rsps ≠ [] → step s = .next { s with
      hist := { s.hist with taken := s.hist.taken ++ [s.port.rsp] }
      inp := { s.inp with turn := .host, sched := as, tick := s.inp.tick + 1, hostIn := rest } })

/-- Where a step stops: a fault is only a response taken before the first one; a refusal is only a reset inside the run
(R222 and U6, R37 and U3). Every instruction of the table answers a next state, always. -/
def Obligations.WhereAStepStops : Prop :=
  (∀ (i : Instr) (s : State), ∃ t, exec i s = .next t) ∧
  (∀ (s : State) (f : Fault), step s = .fault f → s.hist.rsps = [] ∧ s.port.busy = false ∧
    ∃ rest, s.inp.hostIn = .takeResponse :: rest) ∧
  (∀ (s : State) (r : Refusal), step s = .refused r → r = .resetInsideRun ∧ ∃ rest, s.inp.hostIn = .reset :: rest)

/-! ## The command cycle -/

/-- 41_transport_primitives.md section 2: the issue steps of ENABLE, START, STOP, RDACK and RDNACK as commands. -/
def Obligations.TransportIssueSteps : Prop :=
  ∀ s : State, atIssue s 0 →
    exec .enable s = .next (afterEnable s) ∧ exec .start s = .next (afterStart s) ∧ exec .stop s = .next (afterStop s) ∧
    exec .rdAck s = .next (afterRdAck s) ∧ exec .rdNack s = .next (afterRdNack s)

/-- 41_transport_primitives.md section 2, WRITE: its two issue steps as a command. -/
def Obligations.WriteIssueSteps : Prop := ∀ (b : Byte) (s : State), atIssue s 0 → writeIssues (.write b) b s

/-- 42_register_access.md section 1: WREG issues the five primitives of its table, the address byte with direction 0. That
PRIM and PBYTE are set at a WRITE's first issue step and kept at its second is read from R32 by inference (log 20); what an
entry of the register trace holds is log 15. -/
def Obligations.WregIssuesItsTable : Prop :=
  ∀ (a : Addr) (r v : Byte) (s : State),
    (atIssue s 0 → exec (.wreg a r v) s = .next (afterStart s)) ∧
    (atIssue s 1 → writeIssues (.wreg a r v) (a ++ 0#1) s) ∧ (atIssue s 2 → writeIssues (.wreg a r v) r s) ∧
    (atIssue s 3 → writeIssues (.wreg a r v) v s) ∧ (atIssue s 4 → exec (.wreg a r v) s = .next (afterStop s))

/-- 42_register_access.md section 1: RDW issues the eight primitives of its table, the second START with no STOP before it,
the second address byte with direction 1. That PRIM and PBYTE are set at a WRITE's first issue step and kept at its second
is read from R32 by inference (log 20); what an entry of the register trace holds is log 15. -/
def Obligations.RdwIssuesItsTable : Prop :=
  ∀ (a : Addr) (r : Byte) (s : State),
    (atIssue s 0 → exec (.rdw a r) s = .next (afterStart s)) ∧
    (atIssue s 1 → writeIssues (.rdw a r) (a ++ 0#1) s) ∧ (atIssue s 2 → writeIssues (.rdw a r) r s) ∧
    (atIssue s 3 → exec (.rdw a r) s = .next (afterStart s)) ∧ (atIssue s 4 → writeIssues (.rdw a r) (a ++ 1#1) s) ∧
    (atIssue s 5 → exec (.rdw a r) s = .next (afterRdAck s)) ∧ (atIssue s 6 → exec (.rdw a r) s = .next (afterRdNack s)) ∧
    (atIssue s 7 → exec (.rdw a r) s = .next (afterStop s))

/-- 42_register_access.md section 1: PROBE issues START and the address byte, and no STOP. That PRIM and PBYTE are set at the
WRITE's first issue step and kept at its second is read from R32 by inference (log 20); what an entry of the register trace
holds is log 15. -/
def Obligations.ProbeIssuesItsTable : Prop :=
  ∀ (a : Addr) (s : State),
    (atIssue s 0 → exec (.probe a) s = .next (afterStart s)) ∧ (atIssue s 1 → writeIssues (.probe a) (a ++ 0#1) s)

/-- 41_transport_primitives.md section 1: one poll iteration of any command: one read of STAT; Completed if DONE, else a
guarded wait counts down and ends TimedOut at zero, and an unguarded wait changes nothing. -/
def Obligations.PollIteration : Prop :=
  ∀ (i : Instr) (s : State), isCommand i = true → s.port.busy = true → s.seq.phase = .issued →
    let h : History := { s.hist with regs := s.hist.regs ++ [.statRead (statByte s)] }
    (s.eng.done = true → exec i s = .next { s with seq := { s.seq with phase := .completed }, hist := h }) ∧
    (s.eng.done = false → (s.seq.prim = .start ∨ s.seq.prim = .write) → s.seq.cnt ≠ 1 →
      exec i s = .next { s with seq := { s.seq with cnt := s.seq.cnt - 1 }, hist := h }) ∧
    (s.eng.done = false → (s.seq.prim = .start ∨ s.seq.prim = .write) → s.seq.cnt = 1 →
      exec i s = .next { s with seq := { s.seq with cnt := 0, phase := .timedOut }, hist := h }) ∧
    (s.eng.done = false → (s.seq.prim = .rdAck ∨ s.seq.prim = .rdNack) → exec i s = .next { s with hist := h })

/-- R151: the retire step of any command: the outcome goes into the step's slot if it has one, a reception's byte into its
latch, PHASE becomes Idle and STEP advances by one, after Completed and after TimedOut alike. The premises are the
sequencing invariant (`InvariantKept`): the primitive in execution is the sequence's at STEP, and only a guarded wait is
TimedOut. -/
def Obligations.RetireStep : Prop :=
  ∀ (i : Instr) (s : State), isCommand i = true → s.port.busy = true →
    (s.seq.phase = .completed ∨ s.seq.phase = .timedOut) → primAt i s.seq.stepIdx.toNat = some s.seq.prim →
    (s.seq.phase = .timedOut → s.seq.prim = .start ∨ s.seq.prim = .write) →
    ∃ t, exec i s = .next t ∧
      t.seq = { setSlot (slotAt i s.seq.stepIdx.toNat) (outcome s) s.seq with
        phase := .idle
        stepIdx := s.seq.stepIdx + 1
        hi := if latchesHi i s.seq.stepIdx.toNat then s.eng.data else s.seq.hi
        lo := if latchesLo i s.seq.stepIdx.toNat then s.eng.data else s.seq.lo } ∧
      t.eng = s.eng ∧ t.port = s.port ∧ t.inp = s.inp ∧ t.par = s.par ∧
      t.hist = { s.hist with regs := s.hist.regs ++
        (if s.seq.prim = .write ∧ s.seq.phase = .completed then [.statRead (statByte s)] else []) ++
        (if s.seq.prim = .rdAck ∨ s.seq.prim = .rdNack then [.dataRead s.eng.data] else []) }

/-- R144 with R100 and R101: the respond step of any command: the response word from the five slots, FAIL and the
command's data; RSP takes it whole and BUSY is cleared; nothing else changes. For a word that is not legal the next SEQ step
is that step, with `ILL = 1` and no data. -/
def Obligations.RespondStep : Prop :=
  (∀ (i : Instr) (s : State), isCommand i = true → s.port.busy = true → s.seq.phase = .idle →
    s.seq.stepIdx.toNat = lengthOf i →
    let w := response false s.seq.o0 s.seq.o1 s.seq.o2 s.seq.o3 s.seq.o4 (resultData i s.seq)
    exec i s = .next { s with port := { busy := false, rsp := w }, hist := { s.hist with rsps := s.hist.rsps ++ [w] } }) ∧
  (∀ (s : State) (as : List Agent), s.inp.sched = .seq :: as → s.port.busy = true → s.seq.legal = false →
    let w := response true s.seq.o0 s.seq.o1 s.seq.o2 s.seq.o3 s.seq.o4 0#16
    step s = .next { s with
      port := { busy := false, rsp := w }
      hist := { s.hist with rsps := s.hist.rsps ++ [w] }
      inp := { s.inp with turn := .seq, sched := as, tick := s.inp.tick + 1 } })

/-- 41_transport_primitives.md R141, 10_state.md R36: while `BUSY = 0` SEQ has no step: a SEQ turn changes nothing, whatever is
pending in the engine. That running a command's meaning then changes nothing either is the model's choice (log 7). -/
def Obligations.SequencerIdleWhileNotBusy : Prop :=
  (∀ (s : State) (as : List Agent), s.inp.sched = .seq :: as → s.port.busy = false →
    ∃ t, step s = .next t ∧ sameBlock s t ∧
      t.inp = { s.inp with turn := .seq, sched := as, tick := s.inp.tick + 1 }) ∧
  (∀ (i : Instr) (s : State), isCommand i = true → s.port.busy = false → exec i s = .next s)

/-- R142: the issue step loads the budget; a guarded wait that never sees DONE is Issued through its first N - 1 polls and
TimedOut after exactly N; one that sees DONE at a poll within its budget is Completed by it; after TimedOut the next
step samples nothing for the wait. The first clause is for every agent's turn, so that it holds of polls with other turns
between them: only a SEQ turn changes CNT or PHASE, by one poll. The values in the register trace are log 15, and that
WRITE's second issue step leaves PRIM alone is log 20. -/
def Obligations.GuardedWaitExactBudget : Prop :=
  (∀ s t : State, running s ≠ none → s.seq.phase = .issued → (s.seq.prim = .start ∨ s.seq.prim = .write) →
    step s = .next t →
    t.port = s.port ∧ (t.inp.turn ≠ .seq → t.seq = s.seq) ∧
    (t.inp.turn = .seq → t.eng = s.eng) ∧
    (t.inp.turn = .seq → s.eng.done = true → t.seq = { s.seq with phase := .completed }) ∧
    (t.inp.turn = .seq → s.eng.done = false →
      t.seq = { s.seq with cnt := s.seq.cnt - 1, phase := if s.seq.cnt = 1 then .timedOut else .issued })) ∧
  (∀ (i : Instr) (s : State), isCommand i = true → s.port.busy = true → s.seq.phase = .idle →
    (primAt i s.seq.stepIdx.toNat = some .start →
      ∃ t, exec i s = .next t ∧ t.seq = { s.seq with prim := .start, cnt := s.par.budgetStart, phase := .issued }) ∧
    (primAt i s.seq.stepIdx.toNat = some .write → s.seq.wsub = true →
      ∃ t, exec i s = .next t ∧ t.seq = { s.seq with cnt := s.par.budgetWrite, wsub := false, phase := .issued })) ∧
  ∀ (i : Instr) (s : State), isCommand i = true → s.port.busy = true → s.seq.phase = .issued →
    (s.seq.prim = .start ∨ s.seq.prim = .write) → s.seq.cnt ≠ 0 → s.eng.done = false →
    (∀ k, k < s.seq.cnt.toNat → ∃ t, execMany i k s = .next t ∧ t.seq.phase = .issued ∧
      t.seq.cnt.toNat = s.seq.cnt.toNat - k ∧ t.hist.regs = s.hist.regs ++ List.replicate k (.statRead (statByte s)) ∧
      t.eng = s.eng ∧ t.port = s.port ∧
      ∀ u : State, u.eng.done = true → u.seq = t.seq → u.port = t.port →
        ∃ v, exec i u = .next v ∧ v.seq = { t.seq with phase := .completed }) ∧
    (∃ t, execMany i s.seq.cnt.toNat s = .next t ∧ t.seq.phase = .timedOut ∧ t.seq.cnt = 0 ∧
      t.hist.regs = s.hist.regs ++ List.replicate s.seq.cnt.toNat (.statRead (statByte s)) ∧ t.eng = s.eng ∧ t.port = s.port ∧
      ∀ u : State, u.seq = t.seq → u.port = t.port → ∃ v xs, exec i u = .next v ∧ v.seq.phase = .idle ∧
        v.hist.regs = u.hist.regs ++ xs ∧ ∀ x, RegAccess.statRead x ∉ xs)

/-- R143: an unguarded wait is Completed by the poll that finds `DONE = 1`, and else polls for ever: any number of polls that
find `DONE = 0` leave everything but the register trace, and whatever agent steps next, the command is still busy,
Issued and without a response. -/
def Obligations.UnguardedWaitNeverGivesUp : Prop :=
  (∀ (i : Instr) (s : State), isCommand i = true → s.port.busy = true → s.seq.phase = .issued →
    (s.seq.prim = .rdAck ∨ s.seq.prim = .rdNack) → s.eng.done = true →
    exec i s = .next { s with
      seq := { s.seq with phase := .completed }
      hist := { s.hist with regs := s.hist.regs ++ [.statRead (statByte s)] } }) ∧
  (∀ (i : Instr) (s : State) (n : Nat), isCommand i = true → s.port.busy = true → s.seq.phase = .issued →
    (s.seq.prim = .rdAck ∨ s.seq.prim = .rdNack) → s.eng.done = false →
    execMany i n s = .next { s with hist := { s.hist with regs := s.hist.regs ++ List.replicate n (.statRead (statByte s)) } }) ∧
  (∀ s t : State, s.port.busy = true → s.seq.legal = true → running s ≠ none → s.seq.phase = .issued →
    (s.seq.prim = .rdAck ∨ s.seq.prim = .rdNack) → s.eng.done = false → step s = .next t →
    t.port = s.port ∧ t.seq = s.seq ∧ t.hist.rsps = s.hist.rsps)

/-! ## Whole commands -/

/-- 41_transport_primitives.md section 2: ENABLE, run alone from its acceptance: three steps, EN set, the response
`0x03FC0000`, nothing on the wire, nothing in PRIMS. -/
def Obligations.EnableWhole : Prop :=
  ∀ s : State, justAccepted .enable s → s.seq.o1 = .notRun → s.seq.o2 = .notRun → s.seq.o3 = .notRun → s.seq.o4 = .notRun →
    ∃ t, execMany .enable 3 s = .next t ∧ t.eng = { s.eng with en := true } ∧
      t.port = { busy := false, rsp := 0x03FC0000#32 } ∧ t.hist.wire = s.hist.wire ∧ t.hist.prims = s.hist.prims

/-- 41_transport_primitives.md section 2: STOP, run alone from its acceptance: it answers OK without a poll and leaves the
stop requested and not performed. -/
def Obligations.StopWhole : Prop :=
  ∀ s : State, justAccepted .stop s → s.seq.o1 = .notRun → s.seq.o2 = .notRun → s.seq.o3 = .notRun → s.seq.o4 = .notRun →
    ∃ t, execMany .stop 3 s = .next t ∧ t.eng = { s.eng with done := false, pend := .none, stopReq := true } ∧
      t.port = { busy := false, rsp := 0x03FC0000#32 } ∧ t.hist.wire = s.hist.wire ∧
      t.hist.prims = s.hist.prims ++ [.stop] ∧ t.hist.regs = s.hist.regs ++ [.ctrlWrite 0x02#8]

/-- 41_transport_primitives.md section 2, 95_test_vectors.md E4: START and WRITE while the engine never steps: exactly the
budget in polls, then the response `0x43FD0000`, the request still pending, nothing on the wire. The value recorded with
each read of STAT is the model's choice (log 15). -/
def Obligations.TimeoutWhole : Prop :=
  ∀ s : State, s.seq.o1 = .notRun → s.seq.o2 = .notRun → s.seq.o3 = .notRun → s.seq.o4 = .notRun →
    s.par.budgetStart ≠ 0 → s.par.budgetWrite ≠ 0 →
    (justAccepted .start s → ∃ t, execMany .start (s.par.budgetStart.toNat + 3) s = .next t ∧
      t.port = { busy := false, rsp := 0x43FD0000#32 } ∧ t.hist.wire = s.hist.wire ∧
      t.eng = { s.eng with done := false, pend := .start } ∧
      t.hist.regs = s.hist.regs ++ [.ctrlWrite 0x01#8] ++
        List.replicate s.par.budgetStart.toNat (.statRead (0#1 ++ BitVec.ofBool s.eng.acked ++ 0#6))) ∧
    (∀ b : Byte, justAccepted (.write b) s → ∃ t, execMany (.write b) (s.par.budgetWrite.toNat + 4) s = .next t ∧
      t.port = { busy := false, rsp := 0x43FD0000#32 } ∧ t.hist.wire = s.hist.wire ∧
      t.eng = { s.eng with done := false, pend := .tx, data := b } ∧
      t.hist.regs = s.hist.regs ++ [.dataWrite b, .ctrlWrite 0x03#8] ++
        List.replicate s.par.budgetWrite.toNat (.statRead (0#1 ++ BitVec.ofBool s.eng.acked ++ 0#6)))

/-- 41_transport_primitives.md section 2: the primitive commands served promptly, as their examples have them: START emits S or
Sr and answers OK, WRITE answers OK or NACK as Env acknowledges, RDACK and RDNACK answer with the byte received. -/
def Obligations.PrimitivesWholePrompt : Prop :=
  ∀ (s : State) (as : List Agent) (rs : List Bool), s.seq.o1 = .notRun → s.seq.o2 = .notRun → s.seq.o3 = .notRun →
    s.seq.o4 = .notRun → s.eng.en = true → s.eng.stopReq = false → s.inp.readyIn = true :: rs →
    (justAccepted .start s → s.inp.sched = promptPrim ++ [.seq] ++ as →
      ∃ t, Steps 5 s t ∧ t.hist.wire = s.hist.wire ++ [if s.eng.isOpen then .sr else .s] ∧ t.eng.isOpen = true ∧
        t.port = { busy := false, rsp := 0x03FC0000#32 }) ∧
    (∀ (b : Byte) (x : Bool) (acks : List Bool), justAccepted (.write b) s → s.eng.isOpen = true →
      s.inp.sched = promptWrite ++ [.seq] ++ as → s.inp.ackIn = x :: acks →
      ∃ t, Steps 6 s t ∧ t.hist.wire = s.hist.wire ++ [.tx b x] ∧ t.eng.isOpen = true ∧
        t.port = { busy := false, rsp := if x then 0x03FC0000#32 else 0x43FE0000#32 }) ∧
    (∀ (b : Byte) (bs : List Byte), s.eng.isOpen = true → s.inp.sched = promptPrim ++ [.seq] ++ as → s.inp.byteIn = b :: bs →
      (justAccepted .rdAck s → ∃ t, Steps 5 s t ∧ t.hist.wire = s.hist.wire ++ [.rx b .ack] ∧ t.seq.hi = b ∧
        t.port = { busy := false, rsp := 0x03FC00#24 ++ b }) ∧
      (justAccepted .rdNack s → ∃ t, Steps 5 s t ∧ t.hist.wire = s.hist.wire ++ [.rx b .nack] ∧ t.seq.hi = b ∧
        t.port = { busy := false, rsp := 0x03FC00#24 ++ b }))

/-- 42_register_access.md section 1, fire-and-continue, and 41_transport_primitives.md R152: whatever the engine and the
environment do, and however the turns fall, a command that responds has appended exactly its sequence to PRIMS. -/
def Obligations.PrimitivesIssuedWhateverFails : Prop :=
  ∀ (i : Instr) (n : Nat) (s t u : State), isCommand i = true → justAccepted i s → respondsAfter n s t u →
    u.hist.prims = s.hist.prims ++ callsOf i

/-- 42_register_access.md section 1, fire-and-continue, and 41_transport_primitives.md R141, R152, as an invariant of every step:
while a command is in execution PRIMS is the trace it began with and the calls of its sequence issued so far, as STEP,
PHASE and WSUB count them; accepting the command establishes it, every step of any agent keeps it, and the step that
responds leaves exactly the whole sequence. -/
def Obligations.PrimitivesFollowTheSequence : Prop :=
  (∀ (i : Instr) (s : State), isCommand i = true → justAccepted i s → issuedSoFar s.hist.prims i s) ∧
  (∀ (base : List PrimCall) (i : Instr) (s t : State), issuedSoFar base i s → step s = .next t →
    issuedSoFar base i t ∨ (t.port.busy = false ∧ t.hist.prims = base ++ callsOf i))

/-- 42_register_access.md section 2, WREG served promptly: the transaction of 20_memory.md R68 on the wire, whatever the
acknowledgements, the bus closed, and each missing acknowledgement in its slot. -/
def Obligations.WregWholePrompt : Prop :=
  ∀ (a : Addr) (r v : Byte) (x y z : Bool) (s : State) (as : List Agent) (rs acks : List Bool),
    justAccepted (.wreg a r v) s → s.seq.o4 = .notRun → s.eng.en = true → s.eng.stopReq = false →
    s.inp.sched = promptPrim ++ promptWrite ++ promptWrite ++ promptWrite ++ promptStop ++ [.seq] ++ as →
    s.inp.readyIn = List.replicate 5 true ++ rs → s.inp.ackIn = [x, y, z] ++ acks →
    ∃ t, Steps 23 s t ∧
      t.hist.wire = s.hist.wire ++
        [if s.eng.isOpen then .sr else .s, .tx (a ++ 0#1) x, .tx r y, .tx v z, .p] ∧
      t.port.busy = false ∧
      t.port.rsp = response false .ok (if x then .ok else .nack) (if y then .ok else .nack) (if z then .ok else .nack)
        .notRun 0#16 ∧
      t.eng.isOpen = false ∧ t.eng.stopReq = false ∧ t.eng.pend = .none ∧ t.eng.data = v ∧ t.eng.acked = z

/-- 42_register_access.md section 2, RDW served promptly: exactly one repeated start and no stop before it, the two bytes
big-endian in the response. -/
def Obligations.RdwWholePrompt : Prop :=
  ∀ (a : Addr) (r : Byte) (x y z : Bool) (hi lo : Byte) (s : State) (as : List Agent) (rs acks : List Bool)
    (bs : List Byte),
    justAccepted (.rdw a r) s → s.eng.en = true → s.eng.stopReq = false →
    s.inp.sched = promptPrim ++ promptWrite ++ promptWrite ++ promptPrim ++ promptWrite ++ promptPrim ++ promptPrim ++
      promptStop ++ [.seq] ++ as →
    s.inp.readyIn = List.replicate 8 true ++ rs → s.inp.ackIn = [x, y, z] ++ acks → s.inp.byteIn = [hi, lo] ++ bs →
    ∃ t, Steps 35 s t ∧
      t.hist.wire = s.hist.wire ++
        [if s.eng.isOpen then .sr else .s, .tx (a ++ 0#1) x, .tx r y, .sr, .tx (a ++ 1#1) z, .rx hi .ack, .rx lo .nack, .p] ∧
      t.port.busy = false ∧
      t.port.rsp = response false .ok (if x then .ok else .nack) (if y then .ok else .nack) .ok
        (if z then .ok else .nack) (hi ++ lo) ∧
      t.eng.isOpen = false

/-- 42_register_access.md section 2, PROBE served promptly: it answers whether the address was acknowledged and leaves the
bus open, with no stop requested (70_reset_and_hazards.md R231). -/
def Obligations.ProbeWholePrompt : Prop :=
  ∀ (a : Addr) (x : Bool) (s : State) (as : List Agent) (rs acks : List Bool),
    justAccepted (.probe a) s → s.seq.o2 = .notRun → s.seq.o3 = .notRun → s.seq.o4 = .notRun → s.eng.en = true →
    s.eng.stopReq = false → s.inp.sched = promptPrim ++ promptWrite ++ [.seq] ++ as →
    s.inp.readyIn = List.replicate 2 true ++ rs → s.inp.ackIn = [x] ++ acks →
    ∃ t, Steps 10 s t ∧
      t.hist.wire = s.hist.wire ++ [if s.eng.isOpen then .sr else .s, .tx (a ++ 0#1) x] ∧
      t.port = { busy := false, rsp := if x then 0x03F00001#32 else 0x43F80000#32 } ∧
      t.eng.isOpen = true ∧ t.eng.stopReq = false ∧ t.eng.pend = .none

/-! ## The machine -/

/-- 10_state.md R40: the values the spec gives for reset, and that the budgets are in their range (00_scope.md R8). The
values the spec gives none for are the model's choice (log 4) and are not stated. -/
def Obligations.ResetState : Prop :=
  State.reset.eng.en = false ∧ State.reset.eng.pend = .none ∧ State.reset.eng.stopReq = false ∧
  State.reset.eng.isOpen = false ∧ State.reset.eng.done = false ∧ State.reset.eng.acked = false ∧
  State.reset.eng.sdaOut = true ∧ State.reset.eng.sclOut = true ∧ State.reset.hist.wire = [] ∧
  State.reset.hist.prims = [] ∧ State.reset.seq.phase = .idle ∧ State.reset.seq.wsub = false ∧
  State.reset.seq.stepIdx = 0 ∧ State.reset.port.busy = false ∧ State.reset.par.budgetStart ≠ 0 ∧
  State.reset.par.budgetWrite ≠ 0

/-- The invariant holds after reset. -/
def Obligations.InvariantAtReset : Prop := Inv State.reset

/-- Every step keeps the invariant, from every state that has it (10_state.md R25, R30, R32, R33, R35, R37;
20_memory.md R67; 41_transport_primitives.md R142, R155). The lines' clause is the model's choice (log 8). -/
def Obligations.InvariantKept : Prop := ∀ s t : State, Inv s → step s = .next t → Inv t

/-- 20_memory.md R67: every step keeps the wire trace a concatenation of transactions, the last one open exactly while
`OPEN = 1`, from any state. -/
def Obligations.WireShapeKept : Prop :=
  ∀ s t : State, wireShape s.hist.wire = some s.eng.isOpen → step s = .next t →
    wireShape t.hist.wire = some t.eng.isOpen

/-- 41_transport_primitives.md R143, R149 and 70_reset_and_hazards.md R230: an unguarded wait on a disabled engine, on a bus
that is not open, or behind a stop that will close it, is for ever: no run leaves it, and no response comes. -/
def Obligations.HangIsForEver : Prop :=
  ∀ (n : Nat) (s t : State), hung s = true → running s ≠ none → Steps n s t →
    hung t = true ∧ t.port = s.port ∧ t.seq = s.seq ∧ t.hist.rsps = s.hist.rsps

/-- 10_state.md R20, R29, R41, 00_scope.md R8, R11: EN is never cleared, the budgets never change, and every history only
grows, whatever the step. -/
def Obligations.NeverUndone : Prop :=
  ∀ s t : State, step s = .next t →
    (s.eng.en = true → t.eng.en = true) ∧ t.par = s.par ∧ s.hist.wire <+: t.hist.wire ∧ s.hist.prims <+: t.hist.prims ∧
    s.hist.regs <+: t.hist.regs ∧ s.hist.rsps <+: t.hist.rsps ∧ s.hist.taken <+: t.hist.taken

/-- 20_memory.md R77 (d), 10_state.md R29: only an ENG turn puts an event on the wire, one at most, and only with a request
standing, which it uses up. -/
def Obligations.OnlyEngineMovesWire : Prop :=
  ∀ s t : State, step s = .next t → t.hist.wire ≠ s.hist.wire →
    t.inp.turn = .eng ∧ s.eng.en = true ∧ (∃ e, t.hist.wire = s.hist.wire ++ [e]) ∧
    ((s.eng.stopReq = true ∧ t.eng.stopReq = false ∧ t.eng.pend = s.eng.pend) ∨
      (s.eng.stopReq = false ∧ s.eng.pend ≠ .none ∧ t.eng.pend = .none))

/-- 10_state.md R35, R36: while a command is in execution STEP stays or advances by exactly one, and advances only out of
Completed or TimedOut; BUSY falls only in a step that delivers a response. -/
def Obligations.StepAdvancesByOne : Prop :=
  ∀ s t : State, s.port.busy = true → step s = .next t →
    (t.seq.stepIdx = s.seq.stepIdx ∨
      (t.seq.stepIdx = s.seq.stepIdx + 1 ∧ (s.seq.phase = .completed ∨ s.seq.phase = .timedOut) ∧ t.seq.phase = .idle)) ∧
    (t.port.busy = false → t.hist.rsps = s.hist.rsps ++ [t.port.rsp]) ∧
    (t.port.busy = true → t.port = s.port ∧ t.hist.rsps = s.hist.rsps)

/-- 40_bus_engine.md R127: a wait that is given up withdraws nothing: no step of SEQ that is not an issue step (poll, retire,
respond) changes the engine at all. -/
def Obligations.TimeoutWithdrawsNothing : Prop :=
  ∀ (i : Instr) (s t : State), isCommand i = true → (s.seq.phase ≠ .idle ∨ s.seq.stepIdx.toNat = lengthOf i) →
    exec i s = .next t → t.eng = s.eng

/-- 70_reset_and_hazards.md R225: in a quiescent state no turn but a HOST turn changes anything of the block. -/
def Obligations.QuiescentRests : Prop :=
  ∀ (s t : State), quiescent s = true → step s = .next t → t.inp.turn ≠ .host → sameBlock s t ∧ quiescent t = true

/-- 70_reset_and_hazards.md R222: a reset asserted inside a run is refused, whatever is in execution. -/
def Obligations.ResetInsideRunRefused : Prop :=
  ∀ (s : State) (rest : List HostMove) (as : List Agent), s.inp.sched = .host :: as → s.inp.hostIn = .reset :: rest →
    step s = .refused .resetInsideRun

/-- 20_memory.md R71: in the reference device, a register reads as the last byte stored in it and a store changes no other
register, zero bytes included; addressed for write, a transmitted byte is stored at the pointer and the pointer moves
on by one modulo 256. -/
def Obligations.DeviceRegisterStore : Prop :=
  (∀ (m : Memory) (a b v : Byte), m.wf = true → (m.write a v).read b = if b = a then v else m.read b) ∧
  (∀ (d : RefSlave) (b : Byte) (a : Bool) (r : Byte), d.mem.wf = true → d.mode = .addressedWrite → d.awaitAddr = false →
    (d.observe (.tx b a)).mem.read r = (if r = d.ptr then b else d.mem.read r) ∧ (d.observe (.tx b a)).ptr = d.ptr + 1)

/-- 20_memory.md sections 2 and 3: on the wired lines a byte's bits are sampled most significant first, sent and received
alike, the address byte's seven address bits before the direction bit; the ninth bit is low for acknowledged and for ACK;
S, Sr and P are the shapes the text gives; SCL is low after every event but P. PRESUMED (log 8): the spec marks the line
level as general knowledge. -/
def Obligations.LineLevelBits : Prop :=
  (∀ (b : Byte) (a : Bool), sampled (busExpansion (.tx b a)) =
    [b.getLsbD 7, b.getLsbD 6, b.getLsbD 5, b.getLsbD 4, b.getLsbD 3, b.getLsbD 2, b.getLsbD 1, b.getLsbD 0, !a]) ∧
  (∀ (b : Byte) (p : Policy), sampled (busExpansion (.rx b p)) =
    [b.getLsbD 7, b.getLsbD 6, b.getLsbD 5, b.getLsbD 4, b.getLsbD 3, b.getLsbD 2, b.getLsbD 1, b.getLsbD 0,
      decide (p = .nack)]) ∧
  (∀ (a : Addr) (d x : Bool), sampled (busExpansion (.tx (a ++ BitVec.ofBool d) x)) =
    [a.getLsbD 6, a.getLsbD 5, a.getLsbD 4, a.getLsbD 3, a.getLsbD 2, a.getLsbD 1, a.getLsbD 0, d, !x]) ∧
  busLevels [.s, .sr, .p] =
    [⟨true, true⟩] ++ [⟨false, true⟩, ⟨false, false⟩] ++ [⟨true, false⟩, ⟨true, true⟩, ⟨false, true⟩, ⟨false, false⟩] ++
      [⟨false, false⟩, ⟨false, true⟩, ⟨true, true⟩] ∧
  (∀ e : WireEvent, ((busExpansion e).getLast?.map fun x => x.scl) = some (decide (e = .p)))
end

