-- ==== Sys2Proof/Laws/Memory.lean ====
section
/-! SUPPORT. The reference device's registers: reading after writing, and the canonical form kept by every operation. -/

namespace Sys2Proof.Machine

/-! ### The canonical form -/

theorem Memory.wfFrom_mono {lo lo' : Nat} {m : Memory} (h : lo' ≤ lo) (hm : Memory.wfFrom lo m = true) :
    Memory.wfFrom lo' m = true := by
  cases m with
  | nil => rfl
  | cons c rest =>
    simp only [Memory.wfFrom, Bool.and_eq_true, decide_eq_true_eq] at hm ⊢
    exact ⟨⟨⟨by omega, hm.1.1.2⟩, hm.1.2⟩, hm.2⟩

theorem Memory.wfFrom_erase {lo k : Nat} {m : Memory} (hm : Memory.wfFrom lo m = true) :
    Memory.wfFrom lo (Memory.erase m k) = true := by
  induction m generalizing lo with
  | nil => rfl
  | cons c rest ih =>
    simp only [Memory.wfFrom, Bool.and_eq_true, decide_eq_true_eq] at hm
    simp only [Memory.erase]
    split
    · exact Memory.wfFrom_mono (by omega) (ih hm.2)
    · simp only [Memory.wfFrom, Bool.and_eq_true, decide_eq_true_eq]
      exact ⟨hm.1, ih hm.2⟩

/-- After erasing, no entry has the address. -/
theorem Memory.erase_forall (m : Memory) (k : Nat) : ∀ c ∈ Memory.erase m k, c.1 ≠ k := by
  induction m with
  | nil => simp [Memory.erase]
  | cons c rest ih =>
    simp only [Memory.erase]
    split
    · exact ih
    · intro d hd
      rcases List.mem_cons.1 hd with rfl | hd
      · assumption
      · exact ih d hd

theorem Memory.wfFrom_insert {lo k : Nat} {v : Byte} {m : Memory} (hm : Memory.wfFrom lo m = true)
    (hk : ∀ c ∈ m, c.1 ≠ k) (hlo : lo ≤ k) (h256 : k < 256) (hv : v ≠ Memory.unlisted) :
    Memory.wfFrom lo (Memory.insert m k v) = true := by
  induction m generalizing lo with
  | nil => simp [Memory.insert, Memory.wfFrom, hlo, h256, hv]
  | cons c rest ih =>
    simp only [Memory.wfFrom, Bool.and_eq_true, decide_eq_true_eq] at hm
    have hne := hk c (by simp)
    simp only [Memory.insert]
    split
    · simp only [Memory.wfFrom, Bool.and_eq_true, decide_eq_true_eq]
      exact ⟨⟨⟨hlo, h256⟩, hv⟩, ⟨⟨⟨by omega, hm.1.1.2⟩, hm.1.2⟩, hm.2⟩⟩
    · simp only [Memory.wfFrom, Bool.and_eq_true, decide_eq_true_eq]
      exact ⟨hm.1, ih hm.2 (fun d hd => hk d (by simp [hd])) (by omega)⟩

/-- Every store keeps the canonical form. -/
theorem Memory.write_wf {m : Memory} (a v : Byte) (hm : m.wf = true) : (m.write a v).wf = true := by
  unfold Memory.write Memory.wf at *
  split
  · exact Memory.wfFrom_erase hm
  · next hv =>
    exact Memory.wfFrom_insert (Memory.wfFrom_erase hm) (Memory.erase_forall m _) (Nat.zero_le _) a.isLt hv

/-! ### The reference device keeps it (20_memory.md R71) -/

/-- A bus event leaves the device's registers as they are, or stores one byte in them. -/
theorem RefSlave.observe_mem (d : RefSlave) (e : WireEvent) :
    (d.observe e).mem = d.mem ∨ ∃ b a, e = .tx b a ∧ d.mode = .addressedWrite ∧ (d.observe e).mem = d.mem.write d.ptr b := by
  cases e with
  | s => exact .inl rfl
  | sr => exact .inl rfl
  | p => exact .inl rfl
  | rx b p =>
    left
    simp only [RefSlave.observe, RefSlave.onReceive]
    split <;> rfl
  | tx b a =>
    simp only [RefSlave.observe]
    split
    · left; unfold RefSlave.onAddress; split <;> rfl
    · unfold RefSlave.onData
      split
      · exact .inl rfl
      · next h => exact .inr ⟨b, a, rfl, h, rfl⟩
      · exact .inl rfl
      · exact .inl rfl

theorem RefSlave.observe_wf {d : RefSlave} (e : WireEvent) (h : d.mem.wf = true) : (d.observe e).mem.wf = true := by
  rcases d.observe_mem e with h' | ⟨b, a, -, -, h'⟩
  · rw [h']; exact h
  · rw [h']; exact Memory.write_wf _ _ h

end Sys2Proof.Machine
end

