-- ==== Sys2Proof/Laws/Operands.lean ====
section
/-! SUPPORT. One spec lemma for each operand form and flag computation. -/

namespace Sys2Proof.Machine

/-- The address in bits 7:1, the direction in bit 0 (20_memory.md R61). -/
theorem addrByte_eq_append (a : Addr) (d : BitVec 1) : addrByte a d = a ++ d := by
  revert a d; decide

@[simp] theorem statDone_statWord (e : Engine) : statDone (statWord e) = e.done := by
  unfold statDone statWord
  cases e.done <;> cases e.acked <;> decide

@[simp] theorem statAcked_statWord (e : Engine) : statAcked (statWord e) = e.acked := by
  unfold statAcked statWord
  cases e.done <;> cases e.acked <;> decide

@[simp] theorem code_eq_iff (x y : StepOutcome) : x.code = y.code ↔ x = y := by
  cases x <;> cases y <;> decide

end Sys2Proof.Machine
end

