-- ==== Sys2Proof/Laws/State.lean ====
section
/-! SUPPORT. One lemma per field per update: what each named operation makes of each part of the state. -/

namespace Sys2Proof.Machine

/-! ### `traceReg` -/

@[simp] theorem traceReg_eng (x : RegAccess) (s : State) : (traceReg x s).eng = s.eng := rfl
@[simp] theorem traceReg_seq (x : RegAccess) (s : State) : (traceReg x s).seq = s.seq := rfl
@[simp] theorem traceReg_port (x : RegAccess) (s : State) : (traceReg x s).port = s.port := rfl
@[simp] theorem traceReg_hist (x : RegAccess) (s : State) : (traceReg x s).hist = { s.hist with regs := s.hist.regs ++ [x] } := rfl
@[simp] theorem traceReg_inp (x : RegAccess) (s : State) : (traceReg x s).inp = s.inp := rfl
@[simp] theorem traceReg_par (x : RegAccess) (s : State) : (traceReg x s).par = s.par := rfl

/-! ### `ctlWrite` -/

@[simp] theorem ctlWrite_eng (enset : Bool) (op : CtlOp) (s : State) : (ctlWrite enset op s).eng = s.eng.ctlWrite enset op := rfl
@[simp] theorem ctlWrite_seq (enset : Bool) (op : CtlOp) (s : State) : (ctlWrite enset op s).seq = s.seq := rfl
@[simp] theorem ctlWrite_port (enset : Bool) (op : CtlOp) (s : State) : (ctlWrite enset op s).port = s.port := rfl
@[simp] theorem ctlWrite_hist (enset : Bool) (op : CtlOp) (s : State) : (ctlWrite enset op s).hist = { s.hist with regs := s.hist.regs ++ [.ctrlWrite (ctrlWord enset op)] } := rfl
@[simp] theorem ctlWrite_inp (enset : Bool) (op : CtlOp) (s : State) : (ctlWrite enset op s).inp = s.inp := rfl
@[simp] theorem ctlWrite_par (enset : Bool) (op : CtlOp) (s : State) : (ctlWrite enset op s).par = s.par := rfl

/-! ### `writeData` -/

@[simp] theorem writeData_eng (b : Byte) (s : State) : (writeData b s).eng = { s.eng with data := b } := rfl
@[simp] theorem writeData_seq (b : Byte) (s : State) : (writeData b s).seq = s.seq := rfl
@[simp] theorem writeData_port (b : Byte) (s : State) : (writeData b s).port = s.port := rfl
@[simp] theorem writeData_hist (b : Byte) (s : State) : (writeData b s).hist = { s.hist with regs := s.hist.regs ++ [.dataWrite b] } := rfl
@[simp] theorem writeData_inp (b : Byte) (s : State) : (writeData b s).inp = s.inp := rfl
@[simp] theorem writeData_par (b : Byte) (s : State) : (writeData b s).par = s.par := rfl

/-! ### `traceStat` -/

@[simp] theorem traceStat_eng (s : State) : (traceStat s).eng = s.eng := rfl
@[simp] theorem traceStat_seq (s : State) : (traceStat s).seq = s.seq := rfl
@[simp] theorem traceStat_port (s : State) : (traceStat s).port = s.port := rfl
@[simp] theorem traceStat_hist (s : State) : (traceStat s).hist = { s.hist with regs := s.hist.regs ++ [.statRead (statWord s.eng)] } := rfl
@[simp] theorem traceStat_inp (s : State) : (traceStat s).inp = s.inp := rfl
@[simp] theorem traceStat_par (s : State) : (traceStat s).par = s.par := rfl

/-! ### `traceData` -/

@[simp] theorem traceData_eng (s : State) : (traceData s).eng = s.eng := rfl
@[simp] theorem traceData_seq (s : State) : (traceData s).seq = s.seq := rfl
@[simp] theorem traceData_port (s : State) : (traceData s).port = s.port := rfl
@[simp] theorem traceData_hist (s : State) : (traceData s).hist = { s.hist with regs := s.hist.regs ++ [.dataRead s.eng.data] } := rfl
@[simp] theorem traceData_inp (s : State) : (traceData s).inp = s.inp := rfl
@[simp] theorem traceData_par (s : State) : (traceData s).par = s.par := rfl

/-! ### `traceCall` -/

@[simp] theorem traceCall_eng (c : PrimCall) (s : State) : (traceCall c s).eng = s.eng := rfl
@[simp] theorem traceCall_seq (c : PrimCall) (s : State) : (traceCall c s).seq = s.seq := rfl
@[simp] theorem traceCall_port (c : PrimCall) (s : State) : (traceCall c s).port = s.port := rfl
@[simp] theorem traceCall_hist (c : PrimCall) (s : State) : (traceCall c s).hist = { s.hist with prims := s.hist.prims ++ [c] } := rfl
@[simp] theorem traceCall_inp (c : PrimCall) (s : State) : (traceCall c s).inp = s.inp := rfl
@[simp] theorem traceCall_par (c : PrimCall) (s : State) : (traceCall c s).par = s.par := rfl

/-! ### `emit` -/

@[simp] theorem emit_eng (e : WireEvent) (s : State) : (emit e s).eng = { s.eng with sdaOut := sdaAfter e, sclOut := sclAfter e } := rfl
@[simp] theorem emit_seq (e : WireEvent) (s : State) : (emit e s).seq = s.seq := rfl
@[simp] theorem emit_port (e : WireEvent) (s : State) : (emit e s).port = s.port := rfl
@[simp] theorem emit_hist (e : WireEvent) (s : State) : (emit e s).hist = { s.hist with wire := s.hist.wire ++ [e] } := rfl
@[simp] theorem emit_inp (e : WireEvent) (s : State) : (emit e s).inp = { s.inp with device := s.inp.device.map fun d => d.observe e } := rfl
@[simp] theorem emit_par (e : WireEvent) (s : State) : (emit e s).par = s.par := rfl

/-! ### `deliver` -/

@[simp] theorem deliver_eng (w : RspWord) (s : State) : (deliver w s).eng = s.eng := rfl
@[simp] theorem deliver_seq (w : RspWord) (s : State) : (deliver w s).seq = s.seq := rfl
@[simp] theorem deliver_port (w : RspWord) (s : State) : (deliver w s).port = { busy := false, rsp := w } := rfl
@[simp] theorem deliver_hist (w : RspWord) (s : State) : (deliver w s).hist = { s.hist with rsps := s.hist.rsps ++ [w] } := rfl
@[simp] theorem deliver_inp (w : RspWord) (s : State) : (deliver w s).inp = s.inp := rfl
@[simp] theorem deliver_par (w : RspWord) (s : State) : (deliver w s).par = s.par := rfl

/-! ### `finish` -/

@[simp] theorem finish_eng (s : State) : (finish s).eng = { s.eng with pend := .none, done := true } := rfl
@[simp] theorem finish_seq (s : State) : (finish s).seq = s.seq := rfl
@[simp] theorem finish_port (s : State) : (finish s).port = s.port := rfl
@[simp] theorem finish_hist (s : State) : (finish s).hist = s.hist := rfl
@[simp] theorem finish_inp (s : State) : (finish s).inp = s.inp := rfl
@[simp] theorem finish_par (s : State) : (finish s).par = s.par := rfl

/-! ### `hostDone` -/

@[simp] theorem hostDone_eng (rest : List HostMove) (s : State) : (hostDone rest s).eng = s.eng := rfl
@[simp] theorem hostDone_seq (rest : List HostMove) (s : State) : (hostDone rest s).seq = s.seq := rfl
@[simp] theorem hostDone_port (rest : List HostMove) (s : State) : (hostDone rest s).port = s.port := rfl
@[simp] theorem hostDone_hist (rest : List HostMove) (s : State) : (hostDone rest s).hist = s.hist := rfl
@[simp] theorem hostDone_inp (rest : List HostMove) (s : State) : (hostDone rest s).inp = { s.inp with hostIn := rest } := rfl
@[simp] theorem hostDone_par (rest : List HostMove) (s : State) : (hostDone rest s).par = s.par := rfl

/-! ### `accept` -/

@[simp] theorem accept_eng (w : CmdWord) (s : State) : (accept w s).eng = s.eng := rfl
@[simp] theorem accept_hist (w : CmdWord) (s : State) : (accept w s).hist = s.hist := rfl
@[simp] theorem accept_inp (w : CmdWord) (s : State) : (accept w s).inp = s.inp := rfl
@[simp] theorem accept_par (w : CmdWord) (s : State) : (accept w s).par = s.par := rfl
@[simp] theorem accept_busy (w : CmdWord) (s : State) : (accept w s).port.busy = true := rfl
@[simp] theorem accept_rsp (w : CmdWord) (s : State) : (accept w s).port.rsp = s.port.rsp := rfl
@[simp] theorem accept_opc (w : CmdWord) (s : State) : (accept w s).seq.opc = opcOf w := rfl
@[simp] theorem accept_addr (w : CmdWord) (s : State) : (accept w s).seq.addr = addrOf w := rfl
@[simp] theorem accept_reg (w : CmdWord) (s : State) : (accept w s).seq.reg = regOf w := rfl
@[simp] theorem accept_val (w : CmdWord) (s : State) : (accept w s).seq.val = valOf w := rfl
@[simp] theorem accept_o0 (w : CmdWord) (s : State) : (accept w s).seq.o0 = .notRun := rfl
@[simp] theorem accept_o1 (w : CmdWord) (s : State) : (accept w s).seq.o1 = .notRun := rfl
@[simp] theorem accept_o2 (w : CmdWord) (s : State) : (accept w s).seq.o2 = .notRun := rfl
@[simp] theorem accept_o3 (w : CmdWord) (s : State) : (accept w s).seq.o3 = .notRun := rfl
@[simp] theorem accept_o4 (w : CmdWord) (s : State) : (accept w s).seq.o4 = .notRun := rfl
@[simp] theorem accept_stepIdx (w : CmdWord) (s : State) : (accept w s).seq.stepIdx = 0 := rfl
@[simp] theorem accept_phase (w : CmdWord) (s : State) : (accept w s).seq.phase = .idle := rfl
@[simp] theorem accept_wsub (w : CmdWord) (s : State) : (accept w s).seq.wsub = false := rfl
@[simp] theorem accept_legal (w : CmdWord) (s : State) : (accept w s).seq.legal = legalCmd w := rfl
@[simp] theorem accept_cnt (w : CmdWord) (s : State) : (accept w s).seq.cnt = s.seq.cnt := rfl
@[simp] theorem accept_prim (w : CmdWord) (s : State) : (accept w s).seq.prim = s.seq.prim := rfl
@[simp] theorem accept_pbyte (w : CmdWord) (s : State) : (accept w s).seq.pbyte = s.seq.pbyte := rfl
@[simp] theorem accept_hi (w : CmdWord) (s : State) : (accept w s).seq.hi = s.seq.hi := rfl
@[simp] theorem accept_lo (w : CmdWord) (s : State) : (accept w s).seq.lo = s.seq.lo := rfl

/-! ### `Engine.ctlWrite` (30_encoding.md R93) -/

@[simp] theorem ctlWrite_en (e : Engine) (n : Bool) (op : CtlOp) : (e.ctlWrite n op).en = (e.en || n) := by cases op <;> rfl
@[simp] theorem ctlWrite_isOpen (e : Engine) (n : Bool) (op : CtlOp) : (e.ctlWrite n op).isOpen = e.isOpen := by cases op <;> rfl
@[simp] theorem ctlWrite_acked (e : Engine) (n : Bool) (op : CtlOp) : (e.ctlWrite n op).acked = e.acked := by cases op <;> rfl
@[simp] theorem ctlWrite_data (e : Engine) (n : Bool) (op : CtlOp) : (e.ctlWrite n op).data = e.data := by cases op <;> rfl
@[simp] theorem ctlWrite_sdaOut (e : Engine) (n : Bool) (op : CtlOp) : (e.ctlWrite n op).sdaOut = e.sdaOut := by cases op <;> rfl
@[simp] theorem ctlWrite_sclOut (e : Engine) (n : Bool) (op : CtlOp) : (e.ctlWrite n op).sclOut = e.sclOut := by cases op <;> rfl
@[simp] theorem ctlWrite_none_pend (e : Engine) (n : Bool) : (e.ctlWrite n .none).pend = e.pend := rfl
@[simp] theorem ctlWrite_none_done (e : Engine) (n : Bool) : (e.ctlWrite n .none).done = e.done := rfl
@[simp] theorem ctlWrite_none_stopReq (e : Engine) (n : Bool) : (e.ctlWrite n .none).stopReq = e.stopReq := rfl
@[simp] theorem ctlWrite_stop_pend (e : Engine) (n : Bool) : (e.ctlWrite n .stop).pend = .none := rfl
@[simp] theorem ctlWrite_stop_done (e : Engine) (n : Bool) : (e.ctlWrite n .stop).done = false := rfl
@[simp] theorem ctlWrite_stop_stopReq (e : Engine) (n : Bool) : (e.ctlWrite n .stop).stopReq = true := rfl
@[simp] theorem ctlWrite_start_pend (e : Engine) (n : Bool) : (e.ctlWrite n .start).pend = .start := rfl
@[simp] theorem ctlWrite_start_done (e : Engine) (n : Bool) : (e.ctlWrite n .start).done = false := rfl
@[simp] theorem ctlWrite_start_stopReq (e : Engine) (n : Bool) : (e.ctlWrite n .start).stopReq = e.stopReq := rfl
@[simp] theorem ctlWrite_tx_pend (e : Engine) (n : Bool) : (e.ctlWrite n .tx).pend = .tx := rfl
@[simp] theorem ctlWrite_tx_done (e : Engine) (n : Bool) : (e.ctlWrite n .tx).done = false := rfl
@[simp] theorem ctlWrite_tx_stopReq (e : Engine) (n : Bool) : (e.ctlWrite n .tx).stopReq = e.stopReq := rfl
@[simp] theorem ctlWrite_rxAck_pend (e : Engine) (n : Bool) : (e.ctlWrite n .rxAck).pend = .rxAck := rfl
@[simp] theorem ctlWrite_rxAck_done (e : Engine) (n : Bool) : (e.ctlWrite n .rxAck).done = false := rfl
@[simp] theorem ctlWrite_rxAck_stopReq (e : Engine) (n : Bool) : (e.ctlWrite n .rxAck).stopReq = e.stopReq := rfl
@[simp] theorem ctlWrite_rxNack_pend (e : Engine) (n : Bool) : (e.ctlWrite n .rxNack).pend = .rxNack := rfl
@[simp] theorem ctlWrite_rxNack_done (e : Engine) (n : Bool) : (e.ctlWrite n .rxNack).done = false := rfl
@[simp] theorem ctlWrite_rxNack_stopReq (e : Engine) (n : Bool) : (e.ctlWrite n .rxNack).stopReq = e.stopReq := rfl

/-! ### The draws: only the script they read changes (20_memory.md R70) -/

@[simp] theorem drawReady_eng (s : State) : (drawReady s).2.eng = s.eng := by
  unfold drawReady; split <;> [rfl; (split <;> rfl)]
@[simp] theorem drawReady_seq (s : State) : (drawReady s).2.seq = s.seq := by
  unfold drawReady; split <;> [rfl; (split <;> rfl)]
@[simp] theorem drawReady_port (s : State) : (drawReady s).2.port = s.port := by
  unfold drawReady; split <;> [rfl; (split <;> rfl)]
@[simp] theorem drawReady_hist (s : State) : (drawReady s).2.hist = s.hist := by
  unfold drawReady; split <;> [rfl; (split <;> rfl)]
@[simp] theorem drawReady_par (s : State) : (drawReady s).2.par = s.par := by
  unfold drawReady; split <;> [rfl; (split <;> rfl)]
@[simp] theorem drawReady_turn (s : State) : (drawReady s).2.inp.turn = s.inp.turn := by
  unfold drawReady; split <;> [rfl; (split <;> rfl)]
@[simp] theorem drawReady_sched (s : State) : (drawReady s).2.inp.sched = s.inp.sched := by
  unfold drawReady; split <;> [rfl; (split <;> rfl)]
@[simp] theorem drawReady_tick (s : State) : (drawReady s).2.inp.tick = s.inp.tick := by
  unfold drawReady; split <;> [rfl; (split <;> rfl)]
@[simp] theorem drawReady_hostIn (s : State) : (drawReady s).2.inp.hostIn = s.inp.hostIn := by
  unfold drawReady; split <;> [rfl; (split <;> rfl)]
@[simp] theorem drawReady_device (s : State) : (drawReady s).2.inp.device = s.inp.device := by
  unfold drawReady; split <;> [rfl; (split <;> rfl)]
@[simp] theorem drawAck_eng (b : Byte) (s : State) : (drawAck b s).2.eng = s.eng := by
  unfold drawAck; split <;> [rfl; (split <;> rfl)]
@[simp] theorem drawAck_seq (b : Byte) (s : State) : (drawAck b s).2.seq = s.seq := by
  unfold drawAck; split <;> [rfl; (split <;> rfl)]
@[simp] theorem drawAck_port (b : Byte) (s : State) : (drawAck b s).2.port = s.port := by
  unfold drawAck; split <;> [rfl; (split <;> rfl)]
@[simp] theorem drawAck_hist (b : Byte) (s : State) : (drawAck b s).2.hist = s.hist := by
  unfold drawAck; split <;> [rfl; (split <;> rfl)]
@[simp] theorem drawAck_par (b : Byte) (s : State) : (drawAck b s).2.par = s.par := by
  unfold drawAck; split <;> [rfl; (split <;> rfl)]
@[simp] theorem drawAck_turn (b : Byte) (s : State) : (drawAck b s).2.inp.turn = s.inp.turn := by
  unfold drawAck; split <;> [rfl; (split <;> rfl)]
@[simp] theorem drawAck_sched (b : Byte) (s : State) : (drawAck b s).2.inp.sched = s.inp.sched := by
  unfold drawAck; split <;> [rfl; (split <;> rfl)]
@[simp] theorem drawAck_tick (b : Byte) (s : State) : (drawAck b s).2.inp.tick = s.inp.tick := by
  unfold drawAck; split <;> [rfl; (split <;> rfl)]
@[simp] theorem drawAck_hostIn (b : Byte) (s : State) : (drawAck b s).2.inp.hostIn = s.inp.hostIn := by
  unfold drawAck; split <;> [rfl; (split <;> rfl)]
@[simp] theorem drawAck_device (b : Byte) (s : State) : (drawAck b s).2.inp.device = s.inp.device := by
  unfold drawAck; split <;> [rfl; (split <;> rfl)]
@[simp] theorem drawByte_eng (s : State) : (drawByte s).2.eng = s.eng := by
  unfold drawByte; split <;> [rfl; (split <;> rfl)]
@[simp] theorem drawByte_seq (s : State) : (drawByte s).2.seq = s.seq := by
  unfold drawByte; split <;> [rfl; (split <;> rfl)]
@[simp] theorem drawByte_port (s : State) : (drawByte s).2.port = s.port := by
  unfold drawByte; split <;> [rfl; (split <;> rfl)]
@[simp] theorem drawByte_hist (s : State) : (drawByte s).2.hist = s.hist := by
  unfold drawByte; split <;> [rfl; (split <;> rfl)]
@[simp] theorem drawByte_par (s : State) : (drawByte s).2.par = s.par := by
  unfold drawByte; split <;> [rfl; (split <;> rfl)]
@[simp] theorem drawByte_turn (s : State) : (drawByte s).2.inp.turn = s.inp.turn := by
  unfold drawByte; split <;> [rfl; (split <;> rfl)]
@[simp] theorem drawByte_sched (s : State) : (drawByte s).2.inp.sched = s.inp.sched := by
  unfold drawByte; split <;> [rfl; (split <;> rfl)]
@[simp] theorem drawByte_tick (s : State) : (drawByte s).2.inp.tick = s.inp.tick := by
  unfold drawByte; split <;> [rfl; (split <;> rfl)]
@[simp] theorem drawByte_hostIn (s : State) : (drawByte s).2.inp.hostIn = s.inp.hostIn := by
  unfold drawByte; split <;> [rfl; (split <;> rfl)]
@[simp] theorem drawByte_device (s : State) : (drawByte s).2.inp.device = s.inp.device := by
  unfold drawByte; split <;> [rfl; (split <;> rfl)]

/-! ### `takeTurn` -/

@[simp] theorem takeTurn_eng (s : State) : (takeTurn s).eng = s.eng := by
  unfold takeTurn; split <;> rfl
@[simp] theorem takeTurn_seq (s : State) : (takeTurn s).seq = s.seq := by
  unfold takeTurn; split <;> rfl
@[simp] theorem takeTurn_port (s : State) : (takeTurn s).port = s.port := by
  unfold takeTurn; split <;> rfl
@[simp] theorem takeTurn_hist (s : State) : (takeTurn s).hist = s.hist := by
  unfold takeTurn; split <;> rfl
@[simp] theorem takeTurn_par (s : State) : (takeTurn s).par = s.par := by
  unfold takeTurn; split <;> rfl
@[simp] theorem takeTurn_tick (s : State) : (takeTurn s).inp.tick = s.inp.tick + 1 := by
  unfold takeTurn; split <;> rfl
@[simp] theorem takeTurn_hostIn (s : State) : (takeTurn s).inp.hostIn = s.inp.hostIn := by
  unfold takeTurn; split <;> rfl
@[simp] theorem takeTurn_readyIn (s : State) : (takeTurn s).inp.readyIn = s.inp.readyIn := by
  unfold takeTurn; split <;> rfl
@[simp] theorem takeTurn_ackIn (s : State) : (takeTurn s).inp.ackIn = s.inp.ackIn := by
  unfold takeTurn; split <;> rfl
@[simp] theorem takeTurn_byteIn (s : State) : (takeTurn s).inp.byteIn = s.inp.byteIn := by
  unfold takeTurn; split <;> rfl
@[simp] theorem takeTurn_device (s : State) : (takeTurn s).inp.device = s.inp.device := by
  unfold takeTurn; split <;> rfl

end Sys2Proof.Machine
end

