-- ==== Sys2Proof/Laws/BusEngine.lean ====
section
/-! SUPPORT. The engine's operations: what each one makes of the engine and the wire, and what none of them touches. -/

namespace Sys2Proof.Machine

/-- A turn of ENG changes nothing, takes Env's refusal to be ready, or performs the operation whole (40_bus_engine.md
R120). -/
theorem engTurn_cases (can : Engine → Bool) (perform : State → State) (s : State) :
    (can s.eng = false ∧ engTurn can perform s = s) ∨
    (can s.eng = true ∧ (drawReady s).1 = false ∧ engTurn can perform s = (drawReady s).2) ∨
    (can s.eng = true ∧ (drawReady s).1 = true ∧ engTurn can perform s = perform (drawReady s).2) := by
  unfold engTurn
  cases hc : can s.eng
  · exact .inl ⟨rfl, by simp⟩
  · cases hr : (drawReady s).1
    · exact .inr (.inl ⟨rfl, rfl, by simp [hr]⟩)
    · exact .inr (.inr ⟨rfl, rfl, by simp [hr]⟩)

/-! ### The engine and the wire after each operation (R121 to R125) -/

theorem performStart_eng (s : State) :
    (performStart s).eng = { s.eng with isOpen := true, pend := .none, done := true, sdaOut := false, sclOut := false } := by
  unfold performStart
  cases s.eng.isOpen <;> rfl

theorem performStart_wire (s : State) :
    (performStart s).hist.wire = s.hist.wire ++ [if s.eng.isOpen then .sr else .s] := by
  simp [performStart]

theorem performStop_open {s : State} (h : s.eng.isOpen = true) :
    (performStop s).eng = { s.eng with isOpen := false, stopReq := false, sdaOut := true, sclOut := true } ∧
      (performStop s).hist.wire = s.hist.wire ++ [.p] := by
  simp [performStop, h, sdaAfter, sclAfter]

theorem performStop_closed {s : State} (h : s.eng.isOpen = false) :
    performStop s = { s with eng := { s.eng with isOpen := false, stopReq := false } } := by
  simp [performStop, h]

theorem performTx_eng (s : State) :
    (performTx s).eng =
      { s.eng with acked := (drawAck s.eng.data s).1, pend := .none, done := true, sdaOut := true, sclOut := false } := by
  simp [performTx, sdaAfter, sclAfter]

theorem performTx_wire (s : State) :
    (performTx s).hist.wire = s.hist.wire ++ [.tx s.eng.data (drawAck s.eng.data s).1] := by
  simp [performTx]

theorem performRx_eng (p : Policy) (s : State) :
    (performRx p s).eng =
      { s.eng with data := (drawByte s).1, pend := .none, done := true, sdaOut := policyLevel p, sclOut := false } := by
  simp [performRx, sdaAfter, sclAfter]

theorem performRx_wire (p : Policy) (s : State) :
    (performRx p s).hist.wire = s.hist.wire ++ [.rx (drawByte s).1 p] := by
  simp [performRx]

/-! ### What no operation touches (R128) -/

theorem performStart_seq (s : State) : (performStart s).seq = s.seq ∧ (performStart s).port = s.port ∧
    (performStart s).par = s.par := by simp [performStart]

theorem performStop_seq (s : State) : (performStop s).seq = s.seq ∧ (performStop s).port = s.port ∧
    (performStop s).par = s.par := by
  unfold performStop; split <;> simp

theorem performTx_seq (s : State) : (performTx s).seq = s.seq ∧ (performTx s).port = s.port ∧
    (performTx s).par = s.par := by simp [performTx]

theorem performRx_seq (p : Policy) (s : State) : (performRx p s).seq = s.seq ∧ (performRx p s).port = s.port ∧
    (performRx p s).par = s.par := by simp [performRx]

end Sys2Proof.Machine
end

