-- ==== Sys2Proof/Laws/Config.lean ====
section
/-! SUPPORT. What is known of the open parameters: their ranges (00_scope.md R8), nothing else. -/

namespace Sys2Proof

theorem budget_ne_zero (n : Fin 65535) : BitVec.ofNat 16 (n.val + 1) ≠ 0 := by
  intro h
  have := congrArg BitVec.toNat h
  have hn := n.isLt
  rw [BitVec.toNat_ofNat, Nat.mod_eq_of_lt (by omega)] at this
  simp at this

theorem budgetStart_ne_zero : Config.budgetStart ≠ 0 := budget_ne_zero _

theorem budgetWrite_ne_zero : Config.budgetWrite ≠ 0 := budget_ne_zero _

end Sys2Proof
end

