-- ==== Sys2Proof/Laws/Decode.lean ====
section
/-! SUPPORT. Fields of words put together from fields, and what the decoder says of them. -/

namespace Sys2Proof

/-! ### Command words (30_encoding.md R96) -/

@[simp] theorem opcOf_cmdWord (o : BitVec 4) (a : Addr) (r v : Byte) : opcOf (cmdWord o a r v) = o := by
  apply BitVec.eq_of_getLsbD_eq; intro i hi
  simp only [opcOf, cmdWord, BitVec.getLsbD_extractLsb', BitVec.getLsbD_append]
  rw [if_neg (by omega), if_neg (by omega), if_neg (by omega), if_neg (by omega),
    show 28 + i - 8 - 8 - 7 - 5 = i by omega]
  simp [hi]

@[simp] theorem zeroOf_cmdWord (o : BitVec 4) (a : Addr) (r v : Byte) : zeroOf (cmdWord o a r v) = 0 := by
  apply BitVec.eq_of_getLsbD_eq; intro i hi
  simp only [zeroOf, cmdWord, BitVec.getLsbD_extractLsb', BitVec.getLsbD_append]
  rw [if_neg (by omega), if_neg (by omega), if_neg (by omega), if_pos (by omega)]
  simp

@[simp] theorem addrOf_cmdWord (o : BitVec 4) (a : Addr) (r v : Byte) : addrOf (cmdWord o a r v) = a := by
  apply BitVec.eq_of_getLsbD_eq; intro i hi
  simp only [addrOf, cmdWord, BitVec.getLsbD_extractLsb', BitVec.getLsbD_append]
  rw [if_neg (by omega), if_neg (by omega), if_pos (by omega), show 16 + i - 8 - 8 = i by omega]
  simp [hi]

@[simp] theorem regOf_cmdWord (o : BitVec 4) (a : Addr) (r v : Byte) : regOf (cmdWord o a r v) = r := by
  apply BitVec.eq_of_getLsbD_eq; intro i hi
  simp only [regOf, cmdWord, BitVec.getLsbD_extractLsb', BitVec.getLsbD_append]
  rw [if_neg (by omega), if_pos (by omega)]
  simp [hi]

@[simp] theorem valOf_cmdWord (o : BitVec 4) (a : Addr) (r v : Byte) : valOf (cmdWord o a r v) = v := by
  apply BitVec.eq_of_getLsbD_eq; intro i hi
  simp only [valOf, cmdWord, BitVec.getLsbD_extractLsb', BitVec.getLsbD_append]
  rw [if_pos (by omega)]
  simp [hi]

/-- A word whose zero field is zero is put back together from its fields. -/
theorem cmdWord_of_fields (w : CmdWord) (h : zeroOf w = 0) : cmdWord (opcOf w) (addrOf w) (regOf w) (valOf w) = w := by
  apply BitVec.eq_of_getLsbD_eq; intro i hi
  have hz : ∀ k, k < 5 → w.getLsbD (23 + k) = false := by
    intro k hk
    have := congrArg (fun x : BitVec 5 => x.getLsbD k) h
    simpa [zeroOf, hk] using this
  simp only [opcOf, addrOf, regOf, valOf, cmdWord, BitVec.getLsbD_extractLsb', BitVec.getLsbD_append]
  by_cases h1 : i < 8
  · rw [if_pos h1]; simp [h1]
  · rw [if_neg h1]
    by_cases h2 : i - 8 < 8
    · rw [if_pos h2]; simp only [h2, decide_true, Bool.true_and]; congr 1; omega
    · rw [if_neg h2]
      by_cases h3 : i - 8 - 8 < 7
      · rw [if_pos h3]; simp only [h3, decide_true, Bool.true_and]; congr 1; omega
      · rw [if_neg h3]
        by_cases h4 : i - 8 - 8 - 7 < 5
        · rw [if_pos h4]
          have := hz _ h4
          rw [show 23 + (i - 8 - 8 - 7) = i by omega] at this
          simp [this]
        · rw [if_neg h4]
          have h5 : i - 8 - 8 - 7 - 5 < 4 := by omega
          simp only [h5, decide_true, Bool.true_and]; congr 1; omega

/-- What the decoder says of a word put together from fields. -/
@[simp] theorem decodeCmd_cmdWord (o : BitVec 4) (a : Addr) (r v : Byte) :
    decodeCmd (cmdWord o a r v) = decodeFields o a r v := by
  simp [decodeCmd]

/-- The fields a command leaves unused are zero in a word that decodes (R96, R102). -/
theorem unused_eq_instr {x y z : Bool} {a : Addr} {r v : Byte} {i j : Instr} :
    unused x y z a r v i = .instr j ↔ i = j ∧ (x = false → a = 0) ∧ (y = false → r = 0) ∧ (z = false → v = 0) := by
  unfold unused
  by_cases ha : a = 0 <;> by_cases hr : r = 0 <;> by_cases hv : v = 0 <;> cases x <;> cases y <;> cases z <;>
    simp_all

/-- A legal word's zero field is zero. -/
theorem zeroOf_of_legal {w : CmdWord} (h : legalCmd w = true) : zeroOf w = 0 := by
  by_contra hz
  rw [legalCmd, decodeCmd, if_pos hz] at h
  exact Bool.noConfusion h

/-! ### Control words (30_encoding.md R91) -/

@[simp] theorem ensetOf_ctrlWord (e : Bool) (op : CtlOp) : ensetOf (ctrlWord e op) = e := by
  cases e <;> cases op <;> decide

@[simp] theorem ctrlZeroOf_ctrlWord (e : Bool) (op : CtlOp) : ctrlZeroOf (ctrlWord e op) = 0 := by
  cases e <;> cases op <;> decide

@[simp] theorem ctlCodeOf_ctrlWord (e : Bool) (op : CtlOp) : ctlCodeOf (ctrlWord e op) = op.code := by
  cases e <;> cases op <;> decide

end Sys2Proof
end

