-- ==== Sys2Proof/Laws/Lines.lean ====
section
/-! SUPPORT. The line level (20_memory.md R65, R69, log 8): what the wired lines carry, whoever sends. -/

namespace Sys2Proof.Machine

/-- A party that drives nothing changes no line. -/
@[simp] theorem wired_released (m : LineLevels) : wired m released = m := by simp [wired, released]
@[simp] theorem released_wired (d : LineLevels) : wired released d = d := by simp [wired, released]

/-- A byte the master sends stands on the lines as the master drives it. -/
theorem wired_sent (b : Byte) :
    List.zipWith wired (sendByte clockBit b) (receiveByte deviceBit) = sendByte clockBit b := by
  simp [sendByte, receiveByte, clockBit, deviceBit, wired]

/-- A byte the device sends stands on the lines as the master would drive it. -/
theorem wired_received (b : Byte) :
    List.zipWith wired (receiveByte clockBit) (sendByte deviceBit b) = sendByte clockBit b := by
  simp [sendByte, receiveByte, clockBit, deviceBit, wired]

@[simp] theorem sampled_append (k l : List LineLevels) : sampled (k ++ l) = sampled k ++ sampled l := by simp [sampled]

@[simp] theorem sampled_clockBit (v : Bool) : sampled (clockBit v) = [v] := by simp [sampled, clockBit]

/-- A byte is sampled bit 7 first and bit 0 last (R65). -/
theorem sampled_sendByte (b : Byte) :
    sampled (sendByte clockBit b) =
      [b.getLsbD 7, b.getLsbD 6, b.getLsbD 5, b.getLsbD 4, b.getLsbD 3, b.getLsbD 2, b.getLsbD 1, b.getLsbD 0] := by
  simp [sendByte]

/-- The drivers stand after an event at the last level of its expansion (log 8). -/
theorem lineExpansion_last (e : WireEvent) :
    (lineExpansion e).getLast? = some { sda := sdaAfter e, scl := sclAfter e } := by
  cases e <;> simp [lineExpansion, clockBit, sdaAfter, sclAfter]

end Sys2Proof.Machine
end

