-- ==== Sys2Proof/Laws/PerInstr.lean ====
section
/-! SUPPORT. Statements made per instruction. `RowPattern`: an instruction's word, at every operand value, matches the row of
the opcode table it belongs to (30_encoding.md R97, R91, R92). -/

namespace Sys2Proof.Laws

/-- Whether a word matches the row of an instruction. -/
def matchesRow (x : IfaceWord) (i : Instr) : Prop :=
  match x with
  | .cmd w => ∃ m k, i.cmdPattern = some (m, k) ∧ w &&& k = m
  | .ctl w => ∃ m k, i.ctlPattern = some (m, k) ∧ w &&& k = m

/-- Masking a command word masks its fields. -/
theorem cmdWord_and (o o' : BitVec 4) (z : BitVec 5) (a a' : Addr) (r r' v v' : Byte) :
    cmdWord o a r v &&& (o' ++ z ++ a' ++ r' ++ v') = cmdWord (o &&& o') (a &&& a') (r &&& r') (v &&& v') := by
  show (o ++ 0#5 ++ a ++ r ++ v : BitVec (4 + 5 + 7 + 8 + 8)) &&& (o' ++ z ++ a' ++ r' ++ v') = _
  rw [BitVec.and_append, BitVec.and_append, BitVec.and_append, BitVec.and_append, BitVec.zero_and]
  rfl

namespace RowPattern

/-- The instruction's word matches its own row. -/
def Statement (i : Instr) : Prop := matchesRow (encode i) i

theorem enable : Statement .enable := ⟨_, _, rfl, by decide⟩
theorem start : Statement .start := ⟨_, _, rfl, by decide⟩
theorem stop : Statement .stop := ⟨_, _, rfl, by decide⟩
theorem write (b : Byte) : Statement (.write b) := ⟨_, _, rfl, by revert b; decide⟩
theorem rdAck : Statement .rdAck := ⟨_, _, rfl, by decide⟩
theorem rdNack : Statement .rdNack := ⟨_, _, rfl, by decide⟩
theorem eStart (e : Bool) : Statement (.eStart e) := ⟨_, _, rfl, by revert e; decide⟩
theorem eStop (e : Bool) : Statement (.eStop e) := ⟨_, _, rfl, by revert e; decide⟩
theorem eTx (e : Bool) : Statement (.eTx e) := ⟨_, _, rfl, by revert e; decide⟩
theorem eRxAck (e : Bool) : Statement (.eRxAck e) := ⟨_, _, rfl, by revert e; decide⟩
theorem eRxNack (e : Bool) : Statement (.eRxNack e) := ⟨_, _, rfl, by revert e; decide⟩
theorem ctlEnset : Statement .ctlEnset := ⟨_, _, rfl, by decide⟩
theorem probe (a : Addr) : Statement (.probe a) := ⟨_, _, rfl, by revert a; decide⟩

theorem wreg (a : Addr) (r v : Byte) : Statement (.wreg a r v) := by
  refine ⟨0x80000000#32, 0xF#4 ++ 0x1F#5 ++ 0#7 ++ 0#8 ++ 0#8, rfl, ?_⟩
  rw [cmdWord_and]
  simp [cmdWord]

theorem rdw (a : Addr) (r : Byte) : Statement (.rdw a r) := by
  refine ⟨0x90000000#32, 0xF#4 ++ 0x1F#5 ++ 0#7 ++ 0#8 ++ 0xFF#8, rfl, ?_⟩
  rw [cmdWord_and]
  simp [cmdWord]

end RowPattern

end Sys2Proof.Laws
end

