-- ==== Sys2Proof/Laws/Sequencer.lean ====
section
/-! SUPPORT. The command cycle: one equation per kind of SEQ step, and one lemma that says which steps there are. -/

namespace Sys2Proof.Machine

/-! ### Which commands there are -/

/-- The meaning of a command is the command cycle over its sequence and result data. -/
theorem exec_command {i : Instr} (h : isCommand i = true) (s : State) :
    exec i s = .next (seqStep (seqOf i) (dataOf i) s) := by
  cases i <;> first | rfl | simp [isCommand, Instr.cmdPattern] at h

/-- The decoder reads commands from command words. -/
theorem isCommand_of_decodeCmd {w : CmdWord} {i : Instr} (h : decodeCmd w = .instr i) : isCommand i = true := by
  unfold decodeCmd at h
  split at h
  · cases h
  · unfold decodeFields at h
    repeat' split at h
    all_goals first
      | (unfold unused at h
         repeat' split at h
         all_goals first | (cases h; rfl) | cases h)
      | cases h

theorem running_isCommand {s : State} {i : Instr} (h : running s = some i) : isCommand i = true := by
  unfold running at h
  split at h
  · generalize hd : decodeCmd (latchedWord s.seq) = d at h
    cases d with
    | instr j => cases h; exact isCommand_of_decodeCmd hd
    | bad e => cases h
  · cases h

theorem running_busy {s : State} {i : Instr} (h : running s = some i) :
    s.port.busy = true ∧ s.seq.legal = true ∧ decodeCmd (latchedWord s.seq) = .instr i := by
  unfold running at h
  split at h
  · next hb =>
    simp only [Bool.and_eq_true] at hb
    generalize hd : decodeCmd (latchedWord s.seq) = d at h
    cases d with
    | instr j => cases h; exact ⟨hb.1, hb.2, rfl⟩
    | bad e => cases h
  · cases h

/-! ### The steps of the cycle (41_transport_primitives.md R141) -/

theorem seqStep_not_busy {rows : List SeqRow} {d : Seqr → BitVec 16} {s : State} (h : s.port.busy = false) :
    seqStep rows d s = s := by simp [seqStep, h]

theorem seqStep_issue {rows : List SeqRow} {d : Seqr → BitVec 16} {s : State} {row : SeqRow} (hb : s.port.busy = true)
    (hp : s.seq.phase = .idle) (hr : rowAt rows s.seq.stepIdx = some row) : seqStep rows d s = issue row.op s := by
  simp [seqStep, hb, hp, hr]

theorem seqStep_respond {rows : List SeqRow} {d : Seqr → BitVec 16} {s : State} (hb : s.port.busy = true)
    (hp : s.seq.phase = .idle) (hr : rowAt rows s.seq.stepIdx = none) : seqStep rows d s = respond d s := by
  simp [seqStep, hb, hp, hr]

theorem seqStep_poll {rows : List SeqRow} {d : Seqr → BitVec 16} {s : State} (hb : s.port.busy = true)
    (hp : s.seq.phase = .issued) : seqStep rows d s = poll s := by
  simp [seqStep, hb, hp]

theorem seqStep_retire {rows : List SeqRow} {d : Seqr → BitVec 16} {s : State} (hb : s.port.busy = true)
    (hp : s.seq.phase = .completed ∨ s.seq.phase = .timedOut) :
    seqStep rows d s = retire (retireRow rows s.seq.stepIdx) s := by
  rcases hp with hp | hp <;> simp [seqStep, hb, hp]

/-- A step of SEQ is exactly one of these. -/
theorem seqStep_cases (rows : List SeqRow) (d : Seqr → BitVec 16) (s : State) (hb : s.port.busy = true) :
    (∃ row, s.seq.phase = .idle ∧ rowAt rows s.seq.stepIdx = some row ∧ seqStep rows d s = issue row.op s) ∨
    (s.seq.phase = .idle ∧ rowAt rows s.seq.stepIdx = none ∧ seqStep rows d s = respond d s) ∨
    (s.seq.phase = .issued ∧ seqStep rows d s = poll s) ∨
    ((s.seq.phase = .completed ∨ s.seq.phase = .timedOut) ∧ seqStep rows d s = retire (retireRow rows s.seq.stepIdx) s) := by
  cases hp : s.seq.phase with
  | idle =>
    cases hr : rowAt rows s.seq.stepIdx with
    | some row => exact .inl ⟨row, rfl, rfl, seqStep_issue hb hp hr⟩
    | none => exact .inr (.inl ⟨rfl, rfl, seqStep_respond hb hp hr⟩)
  | issued => exact .inr (.inr (.inl ⟨rfl, seqStep_poll hb hp⟩))
  | completed => exact .inr (.inr (.inr ⟨.inl rfl, seqStep_retire hb (.inl hp)⟩))
  | timedOut => exact .inr (.inr (.inr ⟨.inr rfl, seqStep_retire hb (.inr hp)⟩))

/-! ### What each kind of step leaves alone -/

/-- An issue step touches neither the port, the inputs nor the parameters, and of the histories only PRIMS and the register
trace. -/
theorem issue_frame (op : PrimOp) (s : State) :
    (issue op s).port = s.port ∧ (issue op s).inp = s.inp ∧ (issue op s).par = s.par ∧
      (issue op s).hist.wire = s.hist.wire ∧ (issue op s).hist.rsps = s.hist.rsps ∧
      (issue op s).hist.taken = s.hist.taken ∧ (issue op s).eng.isOpen = s.eng.isOpen ∧
      (issue op s).eng.acked = s.eng.acked ∧ (issue op s).eng.sdaOut = s.eng.sdaOut ∧
      (issue op s).eng.sclOut = s.eng.sclOut := by
  cases op <;>
    simp [issue, issueEnable, issueStart, issueStop, issueRdAck, issueRdNack]
  split <;> simp [issueWriteLoad, issueWriteTrigger]

@[simp] theorem traceRetire_eng (row : SeqRow) (s : State) : (traceRetire row s).eng = s.eng := by
  unfold traceRetire; split <;> split <;> simp

@[simp] theorem traceRetire_seq (row : SeqRow) (s : State) : (traceRetire row s).seq = s.seq := by
  unfold traceRetire; split <;> split <;> simp

@[simp] theorem traceRetire_port (row : SeqRow) (s : State) : (traceRetire row s).port = s.port := by
  unfold traceRetire; split <;> split <;> simp

@[simp] theorem traceRetire_inp (row : SeqRow) (s : State) : (traceRetire row s).inp = s.inp := by
  unfold traceRetire; split <;> split <;> simp

@[simp] theorem traceRetire_par (row : SeqRow) (s : State) : (traceRetire row s).par = s.par := by
  unfold traceRetire; split <;> split <;> simp

/-- The reads of a retire step show in the register trace only. -/
theorem traceRetire_hist (row : SeqRow) (s : State) :
    ∃ xs, (traceRetire row s).hist = { s.hist with regs := s.hist.regs ++ xs } := by
  unfold traceRetire
  split <;> split <;> simp only [traceStat_hist, traceData_hist]
  · exact ⟨_, by rw [List.append_assoc]⟩
  · exact ⟨_, rfl⟩
  · exact ⟨_, rfl⟩
  · exact ⟨[], by simp⟩

@[simp] theorem retire_eng (row : SeqRow) (s : State) : (retire row s).eng = s.eng := by simp [retire]
@[simp] theorem retire_port (row : SeqRow) (s : State) : (retire row s).port = s.port := by simp [retire]
@[simp] theorem retire_inp (row : SeqRow) (s : State) : (retire row s).inp = s.inp := by simp [retire]
@[simp] theorem retire_par (row : SeqRow) (s : State) : (retire row s).par = s.par := by simp [retire]

theorem retire_seq (row : SeqRow) (s : State) :
    (retire row s).seq = ((s.seq.reportIf row.slot (outcomeOf s)).latchIf row.latch s.eng.data).advance := by
  simp [retire]

@[simp] theorem poll_eng (s : State) : (poll s).eng = s.eng := rfl
@[simp] theorem poll_port (s : State) : (poll s).port = s.port := rfl
@[simp] theorem poll_inp (s : State) : (poll s).inp = s.inp := rfl
@[simp] theorem poll_par (s : State) : (poll s).par = s.par := rfl
theorem poll_seq (s : State) : (poll s).seq = s.seq.poll s.eng.done := by simp [poll]

/-- A report writes its slot and nothing else of what the cycle uses. -/
theorem reportIf_frame (q : Seqr) (slot : Option (Fin 5)) (o : StepOutcome) :
    (q.reportIf slot o).phase = q.phase ∧ (q.reportIf slot o).cnt = q.cnt ∧ (q.reportIf slot o).prim = q.prim ∧
      (q.reportIf slot o).wsub = q.wsub ∧ (q.reportIf slot o).opc = q.opc ∧ (q.reportIf slot o).addr = q.addr ∧
      (q.reportIf slot o).reg = q.reg ∧ (q.reportIf slot o).val = q.val ∧ (q.reportIf slot o).hi = q.hi ∧
      (q.reportIf slot o).lo = q.lo ∧ (q.reportIf slot o).stepIdx = q.stepIdx ∧ (q.reportIf slot o).legal = q.legal := by
  cases slot with
  | none => simp [Seqr.reportIf]
  | some k =>
    match k with
    | 0 | 1 | 2 | 3 | 4 => simp [Seqr.reportIf, Seqr.report]

/-- A latch writes HI or LO and nothing else. -/
theorem latchIf_frame (q : Seqr) (l : Option Latch) (b : Byte) :
    (q.latchIf l b).phase = q.phase ∧ (q.latchIf l b).cnt = q.cnt ∧ (q.latchIf l b).prim = q.prim ∧
      (q.latchIf l b).wsub = q.wsub ∧ (q.latchIf l b).opc = q.opc ∧ (q.latchIf l b).addr = q.addr ∧
      (q.latchIf l b).reg = q.reg ∧ (q.latchIf l b).val = q.val ∧ (q.latchIf l b).o0 = q.o0 ∧
      (q.latchIf l b).o1 = q.o1 ∧ (q.latchIf l b).o2 = q.o2 ∧ (q.latchIf l b).o3 = q.o3 ∧ (q.latchIf l b).o4 = q.o4 ∧
      (q.latchIf l b).stepIdx = q.stepIdx ∧ (q.latchIf l b).legal = q.legal := by
  cases l with
  | none => simp [Seqr.latchIf]
  | some x => cases x <;> simp [Seqr.latchIf]

end Sys2Proof.Machine
end

