-- ==== Sys2Proof/Laws/Step.lean ====
section
/-! SUPPORT. The inversion lemma of `step`: everything a step that answers a next state can have been. -/

namespace Sys2Proof.Machine

/-- What the engine can perform at a state, once Env has answered ready (40_bus_engine.md R120). -/
inductive Performs (u : State) : (State → State) → Prop
  | start (h : canStart u.eng = true) : Performs u performStart
  | stop (h : canStop u.eng = true) : Performs u performStop
  | tx (h : canTx u.eng = true) : Performs u performTx
  | rxAck (h : canRxAck u.eng = true) : Performs u (performRx .ack)
  | rxNack (h : canRxNack u.eng = true) : Performs u (performRx .nack)

/-- How a turn taken at `u` can end. -/
inductive Moved (u : State) : State → Prop
  | idle : Moved u u
  | accepted (w : CmdWord) (rest : List HostMove) (hb : u.port.busy = false)
      (h : u.inp.hostIn = .command w :: rest) : Moved u (accept w (hostDone rest u))
  | took (rest : List HostMove) (hb : u.port.busy = false) (h : u.inp.hostIn = .takeResponse :: rest) (hr : u.hist.rsps ≠ []) :
      Moved u { hostDone rest u with hist := { u.hist with taken := u.hist.taken ++ [u.port.rsp] } }
  | illegal (hb : u.port.busy = true) (h : running u = none) : Moved u (respondIllegal u)
  | ran (i : Instr) (h : running u = some i) : Moved u (seqStep (seqOf i) (dataOf i) u)
  | notReady : Moved u (drawReady u).2
  | performed (f : State → State) (h : Performs u f) : Moved u (f (drawReady u).2)

theorem moved_engTurn {u : State} {can : Engine → Bool} {f : State → State} (h : can u.eng = true → Performs u f) :
    Moved u (engTurn can f u) := by
  rcases engTurn_cases can f u with ⟨-, h'⟩ | ⟨-, -, h'⟩ | ⟨hc, -, h'⟩ <;> rw [h']
  · exact .idle
  · exact .notReady
  · exact .performed f (h hc)

theorem moved_host {u t : State} (h : runFetched (fetchHost u) = .next t) : Moved u t := by
  unfold fetchHost at h
  split at h
  · cases h; exact .idle
  · cases h
  · next w rest hin =>
    by_cases hb : u.port.busy = true
    · simp only [hb, if_true, runFetched] at h; cases h; exact .idle
    · simp only [hb, Bool.false_eq_true, if_false, runFetched] at h
      cases h; exact .accepted w rest (by simpa using hb) hin
  · next rest hin =>
    by_cases hb : u.port.busy = true
    · simp only [hb, if_true, runFetched] at h; cases h; exact .idle
    · simp only [hb, Bool.false_eq_true, if_false, runFetched, takeResponse, hostDone_hist] at h
      by_cases hr : u.hist.rsps = []
      · simp [hr] at h
      · have he : u.hist.rsps.isEmpty = false := by simp [hr]
        simp only [he, Bool.false_eq_true, if_false] at h
        cases h; exact .took rest (by simpa using hb) hin hr

theorem moved_seq {u t : State} (h : runFetched (fetchSeq u) = .next t) : Moved u t := by
  unfold fetchSeq at h
  split at h
  · next hb =>
    split at h
    · next hl =>
      split at h
      · next i hd =>
        have hrun : running u = some i := by simp [running, hb, hl, hd, Decoded.toOption]
        rw [runFetched, exec_command (running_isCommand hrun)] at h
        cases h; exact .ran i hrun
      · next e hd =>
        cases h; exact .illegal hb (by simp [running, hb, hl, hd, Decoded.toOption])
    · next hl => cases h; exact .illegal hb (by simp [running, hl])
  · cases h; exact .idle

theorem moved_eng {u t : State} (ht : u.inp.turn = .eng) (h : runFetched (fetchEng u) = .next t) : Moved u t := by
  unfold fetchEng at h
  split at h
  · rw [runFetched, exec, execEStop, engineOp, if_pos ht] at h
    cases h; exact moved_engTurn .stop
  · split at h
    · cases h; exact .idle
    · rw [runFetched, exec, execEStart, engineOp, if_pos ht] at h
      cases h; exact moved_engTurn .start
    · rw [runFetched, exec, execETx, engineOp, if_pos ht] at h
      cases h; exact moved_engTurn .tx
    · rw [runFetched, exec, execERxAck, engineOp, if_pos ht] at h
      cases h; exact moved_engTurn .rxAck
    · rw [runFetched, exec, execERxNack, engineOp, if_pos ht] at h
      cases h; exact moved_engTurn .rxNack

/-- Everything a step can do. -/
theorem step_cases {s t : State} (h : step s = .next t) : Moved (takeTurn s) t := by
  unfold step fetch at h
  dsimp only at h
  split at h
  · exact moved_host h
  · exact moved_seq h
  · next ht => exact moved_eng ht h

/-! ### A word placed where the next step runs it -/

@[simp] theorem openBus_isOpen (s : State) : (openBus s).eng.isOpen = true := by
  unfold openBus; split <;> simp_all

@[simp] theorem requested_eng (e : Bool) (op : CtlOp) (s : State) :
    (requested e op s).eng = Engine.ctlWrite { s.eng with en := true, stopReq := false } e op := rfl

/-- The step after a request is the engine's, with Env ready. -/
theorem step_requested (e : Bool) (op : CtlOp) (s : State) :
    step (requested e op s) = runFetched (fetchEng (takeTurn (requested e op s))) ∧
      (drawReady (takeTurn (requested e op s))).1 = true := ⟨rfl, rfl⟩

/-- The step after a command word is placed is SEQ's. -/
theorem step_placeCmd (w : CmdWord) (s : State) :
    step (placeCmd w s) = runFetched (fetchSeq (takeTurn (placeCmd w s))) := rfl

end Sys2Proof.Machine
end

