-- ==== Sys2Proof/Tests/Slice0.lean ====
section
/-! SUPPORT. Tests, with expected values from the spec's tables and examples, and a witness for the hypotheses of every
statement that has some. -/

namespace Sys2Proof.Tests

open Sys2Proof Sys2Proof.Machine Sys2Proof.Claims

/-! ### Helpers -/

/-- The reset state with budgets of 3 and 2 polls. -/
def lab : State := { State.reset with par := { budgetStart := 3, budgetWrite := 2 } }

/-- The state an answer goes on from. -/
def after : Answer → Option State
  | .next s => some s
  | .fault _ => none
  | .refused _ => none

/-- A command in execution at a step and a phase. -/
def inside (w : CmdWord) (k : BitVec 4) (p : Phase) (m : Prim) : State :=
  let s := accept w lab
  { s with seq := { s.seq with stepIdx := k, phase := p, prim := m } }

/-- The engine enabled on an ENG turn, with a request and an open or closed bus, Env ready once. -/
def engine (p : Pend) (isOpen stop : Bool) : State :=
  { lab with
    eng := { lab.eng with en := true, pend := p, isOpen := isOpen, stopReq := stop, data := 0xD0#8 }
    inp := { lab.inp with turn := .eng, readyIn := [true], ackIn := [true], byteIn := [0x01#8] } }

/-- The same state with these agents to step next. -/
def withSched (as : List Agent) (s : State) : State := { s with inp := { s.inp with sched := as } }

/-- The same state with these moves of the host. -/
def withHost (hs : List HostMove) (s : State) : State := { s with inp := { s.inp with hostIn := hs } }

/-- A reception awaited on a bus that is not open. -/
def hanging : State :=
  let s := inside 0x50000000#32 0 .issued .rdAck
  { s with eng := { s.eng with en := true, pend := .rxAck } }

/-- RDW waits for its repeated start, with a poll counter, and an agent steps next. -/
def waiting (a : Agent) (done : Bool) (cnt : BitVec 16) : State :=
  let s := withSched [a] (inside 0x90683B00#32 3 .issued .start)
  { s with eng := { s.eng with done := done }, seq := { s.seq with cnt := cnt } }

/-! ### Well-formedness: an ill-formed line for each check (30_encoding.md R104) -/

theorem test_wf_addr_wreg : (AsmLine.wreg 128 0 0).wf = false ∧ asmWord (.wreg 128 0 0) = none := by decide
theorem test_wf_reg_wreg : (AsmLine.wreg 0 256 0).wf = false ∧ asmWord (.wreg 0 256 0) = none := by decide
theorem test_wf_val_wreg : (AsmLine.wreg 0 0 256).wf = false ∧ asmWord (.wreg 0 0 256) = none := by decide
theorem test_wf_addr_rdw : (AsmLine.rdw 128 0).wf = false ∧ asmWord (.rdw 128 0) = none := by decide
theorem test_wf_reg_rdw : (AsmLine.rdw 0 256).wf = false ∧ asmWord (.rdw 0 256) = none := by decide
theorem test_wf_addr_probe : (AsmLine.probe 128).wf = false ∧ asmWord (.probe 128) = none := by decide
theorem test_wf_byte_write : (AsmLine.write 256).wf = false ∧ asmWord (.write 256) = none := by decide
theorem test_wf_addr_waddr : (AsmLine.waddr 128 true).wf = false ∧ asmWord (.waddr 128 true) = none := by decide
theorem test_wf_boundary : (AsmLine.wreg 127 255 255).wf = true ∧ (AsmLine.write 255).wf = true := by decide

/-! ### Decoding: a word of every row, written out from 30_encoding.md R96, R97, R91, R92 -/

theorem test_decode_enable : decodeCmd 0b0001_00000_0000000_00000000_00000000#32 = .instr .enable := by decide
theorem test_decode_start : decodeCmd 0b0010_00000_0000000_00000000_00000000#32 = .instr .start := by decide
theorem test_decode_stop : decodeCmd 0b0011_00000_0000000_00000000_00000000#32 = .instr .stop := by decide
theorem test_decode_write : decodeCmd 0b0100_00000_0000000_00000000_11010001#32 = .instr (.write 0xD1#8) := by decide
theorem test_decode_rdAck : decodeCmd 0b0101_00000_0000000_00000000_00000000#32 = .instr .rdAck := by decide
theorem test_decode_rdNack : decodeCmd 0b0110_00000_0000000_00000000_00000000#32 = .instr .rdNack := by decide
theorem test_decode_wreg :
    decodeCmd 0b1000_00000_1101000_00011001_00000111#32 = .instr (.wreg 0x68#7 0x19#8 0x07#8) := by decide
theorem test_decode_rdw : decodeCmd 0b1001_00000_1101000_00111011_00000000#32 = .instr (.rdw 0x68#7 0x3B#8) := by decide
theorem test_decode_probe : decodeCmd 0b1010_00000_1101000_00000000_00000000#32 = .instr (.probe 0x68#7) := by decide
theorem test_decode_eStart :
    decodeCtl 0b0_0000_001#8 = .instr (.eStart false) ∧ decodeCtl 0b1_0000_001#8 = .instr (.eStart true) := by decide
theorem test_decode_eStop : decodeCtl 0b0_0000_010#8 = .instr (.eStop false) := by decide
theorem test_decode_eTx : decodeCtl 0b0_0000_011#8 = .instr (.eTx false) := by decide
theorem test_decode_eRxAck : decodeCtl 0b0_0000_100#8 = .instr (.eRxAck false) := by decide
theorem test_decode_eRxNack : decodeCtl 0b0_0000_101#8 = .instr (.eRxNack false) := by decide
theorem test_decode_ctlEnset : decodeCtl 0b1_0000_000#8 = .instr .ctlEnset := by decide

/-- Every way of not being an instruction, by name (R102, R91, R92). -/
theorem test_decode_rejects :
    decodeCmd 0x00000000#32 = .bad .reservedOpcode ∧ decodeCmd 0x70000000#32 = .bad .reservedOpcode ∧
    decodeCmd 0xF0000000#32 = .bad .reservedOpcode ∧ decodeCmd 0x10800000#32 = .bad .nonzeroZeroField ∧
    decodeCmd 0x20010000#32 = .bad .nonzeroAddr ∧ decodeCmd 0xA0680100#32 = .bad .nonzeroReg ∧
    decodeCmd 0x90683B01#32 = .bad .nonzeroVal ∧ decodeCtl 0x08#8 = .bad .reservedCtrlBits ∧
    decodeCtl 0x06#8 = .bad .reservedCtrlOp ∧ decodeCtl 0x87#8 = .bad .reservedCtrlOp ∧
    decodeCtl 0x00#8 = .bad .noRequest := by decide

/-- Table words of either format. -/
theorem test_table_word :
    decodeTableWord 32 0xA0680000 = some (.probe 0x68#7) ∧ decodeTableWord 8 0x83 = some (.eTx true) ∧
    decodeTableWord 16 0x80 = none := by decide

/-- A line in each of the two forms (R104), a pseudo-instruction (R105), a comment. -/
theorem test_assemble_mnemonic : assembleLine "WREG 0x68, 0x6B, 0 ; wake".toList = .word (.cmd 0x80686B00#32) := by decide
theorem test_assemble_call : assembleLine "readWord(0x68, 0x3B)".toList = .word (.cmd 0x90683B00#32) := by decide
theorem test_assemble_waddr : assembleLine "WADDR 0x68, R".toList = .word (.cmd 0x400000D1#32) := by decide
theorem test_assemble_refuses :
    assembleLine "WRITE 256".toList = .refused ∧ assembleLine "; nothing".toList = .blank := by decide

/-! ### One step of each instruction -/

/-- R145: `EN <- 1`, Completed, nothing in PRIMS. -/
theorem test_enable :
    (after (exec .enable (accept 0x10000000#32 lab))).map (fun t => (t.eng.en, t.seq.phase, t.hist.prims)) =
      some (true, .completed, []) := by decide

/-- R146: the request, the budget, Issued. -/
theorem test_start_issue :
    (after (exec .start (accept 0x20000000#32 lab))).map (fun t => (t.eng.pend, t.seq.cnt, t.seq.phase, t.hist.prims)) =
      some (.start, 3, .issued, [.start]) := by decide

/-- R142: the last poll of a budget ends TimedOut. -/
theorem test_start_poll :
    let s := inside 0x20000000#32 0 .issued .start
    (after (exec .start { s with seq := { s.seq with cnt := 1 } })).map (fun t => (t.seq.cnt, t.seq.phase)) =
      some (0, .timedOut) := by decide

/-- R147: Completed at once, STOPREQ set, what was pending erased. -/
theorem test_stop :
    let s := accept 0x30000000#32 (engine .tx true false)
    (after (exec .stop s)).map (fun t => (t.eng.stopReq, t.eng.pend, t.seq.phase)) = some (true, .none, .completed) := by
  decide

/-- R148, issue step 1: DATA is loaded and nothing is requested. -/
theorem test_write_load :
    (after (exec (.write 0xD1#8) (accept 0x400000D1#32 lab))).map (fun t => (t.eng.data, t.eng.pend, t.seq.wsub)) =
      some (0xD1#8, .none, true) := by decide

/-- R148, retire: Completed with ACKED = 0 is NACK. -/
theorem test_write_nack :
    (after (exec (.write 0xD0#8) (inside 0x400000D0#32 0 .completed .write))).map (fun t => (t.seq.o0, t.seq.stepIdx)) =
      some (.nack, 1) := by decide

/-- R149, retire: the byte goes to HI (the example's 0x7F). -/
theorem test_rdAck :
    let s := inside 0x50000000#32 0 .completed .rdAck
    (after (exec .rdAck { s with eng := { s.eng with data := 0x7F#8 } })).map (fun t => (t.seq.hi, t.seq.o0)) =
      some (0x7F#8, .ok) := by decide

/-- R150, respond: `0x03FC0002`. -/
theorem test_rdNack :
    let s := inside 0x60000000#32 1 .idle .rdNack
    (after (exec .rdNack { s with seq := { s.seq with hi := 0x02#8, o0 := .ok } })).map (fun t => (t.port.rsp, t.port.busy)) =
      some (0x03FC0002#32, false) := by decide

/-- R170, R172: step 1 sends the address byte 0xD0. -/
theorem test_wreg :
    (after (exec (.wreg 0x68#7 0x6B#8 0x00#8) (inside 0x80686B00#32 1 .idle .start))).map (fun t => t.hist.prims) =
      some [.writeByte 0xD0#8] := by decide

/-- R170, R173: step 4 sends the address byte 0xD1. -/
theorem test_rdw_addr :
    (after (exec (.rdw 0x68#7 0x3B#8) (inside 0x90683B00#32 4 .idle .start))).map (fun t => t.hist.prims) =
      some [.writeByte 0xD1#8] := by decide

/-- R150, R170: step 6 latches LO, not HI. -/
theorem test_rdw_lo :
    let s := inside 0x90683B00#32 6 .completed .rdNack
    (after (exec (.rdw 0x68#7 0x3B#8) { s with eng := { s.eng with data := 0x02#8 } })).map
      (fun t => (t.seq.hi, t.seq.lo, t.seq.stepIdx)) = some (0, 0x02#8, 7) := by decide

/-- R174: a probe not acknowledged answers `0x43F80000`, with no STOP. -/
theorem test_probe :
    let s := inside 0xA0680000#32 2 .idle .write
    (after (exec (.probe 0x68#7) { s with seq := { s.seq with o0 := .ok, o1 := .nack } })).map
      (fun t => (t.port.rsp, t.eng.stopReq)) = some (0x43F80000#32, false) := by decide

/-- R121: S on a closed bus, Sr on an open one. -/
theorem test_eStart :
    (after (exec (.eStart false) (engine .start false false))).map (fun t => (t.hist.wire, t.eng.isOpen, t.eng.done)) =
      some ([.s], true, true) ∧
    (after (exec (.eStart false) (engine .start true false))).map (fun t => t.hist.wire) = some [.sr] := by decide

/-- R122, the example: P, OPEN = 0, and START stays pending, with DONE not set. -/
theorem test_eStop :
    (after (exec (.eStop false) (engine .start true true))).map
      (fun t => (t.hist.wire, t.eng.isOpen, t.eng.pend, t.eng.done)) = some ([.p], false, .start, false) := by decide

/-- R122: with the bus not open no event. -/
theorem test_eStop_closed :
    (after (exec (.eStop false) (engine .none false true))).map (fun t => (t.hist.wire, t.eng.stopReq)) =
      some ([], false) := by decide

/-- R123, the example: TX(0xD0, 1). -/
theorem test_eTx :
    (after (exec (.eTx false) (engine .tx true false))).map (fun t => (t.hist.wire, t.eng.acked, t.eng.done)) =
      some ([.tx 0xD0#8 true], true, true) := by decide

/-- R123: not enabled with the bus not open. -/
theorem test_eTx_closed : after (exec (.eTx false) (engine .tx false false)) = some (engine .tx false false) := by decide

/-- R124, the example: RX(0x01, ACK). -/
theorem test_eRxAck :
    (after (exec (.eRxAck false) (engine .rxAck true false))).map (fun t => (t.hist.wire, t.eng.data, t.eng.acked)) =
      some ([.rx 0x01#8 .ack], 0x01#8, false) := by decide

/-- R125: RX(b, NACK). -/
theorem test_eRxNack :
    (after (exec (.eRxNack false) (engine .rxNack true false))).map (fun t => (t.hist.wire, t.eng.data)) =
      some ([.rx 0x01#8 .nack], 0x01#8) := by decide

/-- R93: `CtlWrite(1, NONE)` is no trigger write. -/
theorem test_ctlEnset :
    let s := { lab with eng := { lab.eng with done := true, pend := .tx } }
    (after (exec .ctlEnset s)).map (fun t => (t.eng.en, t.eng.done, t.eng.pend)) = some (true, true, .tx) := by decide

/-- R93: a START request does not erase a STOP request; a STOP request erases a pending one. -/
theorem test_trigger :
    ((engine .tx true true).eng.ctlWrite false .start).stopReq = true ∧
    ((engine .tx true true).eng.ctlWrite false .stop).pend = .none := by decide

/-- 20_memory.md R71: index, value, pointer; the addressed read answers from the pointer. -/
theorem test_device :
    let d : RefSlave := { addr := 0x68#7, mem := [(0x3B, 0x01#8)], ptr := 0, mode := .idle, awaitAddr := true }
    let d := d.observe (.tx 0xD0#8 true)
    let d := d.observe (.tx 0x3A#8 true)
    let d := d.observe (.tx 0x05#8 true)
    (d.mem, d.ptr, d.ack 0#8, (d.observe .sr).ack 0xD3#8) = ([(0x3A, 0x05#8), (0x3B, 0x01#8)], 0x3B#8, some true, some false) := by
  decide

/-- What the host's two probes do, on a word of either format, from reset. -/
theorem test_fetch_cmd :
    (after (step (State.reset.withFetchWord 32 0x20000000))).map (fun t => t.hist.prims) = some [.start] := by decide
/-- A start on an idle bus, a stop with nothing to stop, ENABLE's word; a reserved code places nothing (R121, R122, R145). -/
theorem test_fetch_ctl :
    (after (step (State.reset.withFetchWord 8 0x81))).map (fun t => (t.hist.wire, t.eng.pend, t.eng.done)) =
      some ([.s], .none, true) ∧
    (after (step (State.reset.withFetchWord 8 0x02))).map (fun t => (t.hist.wire, t.eng.stopReq)) = some ([], false) ∧
    (after (step (State.reset.withFetchWord 8 0x80))).map (fun t => (t.eng.en, t.hist.regs)) =
      some (true, [.ctrlWrite 0x80#8]) ∧
    lab.withFetchWord 8 0x06 = lab := by
  decide

/-- A reception is performed, with the byte a free value: what is checked is that it is the word's operation (R125). -/
theorem test_fetch_ctl_rx :
    (after (step (State.reset.withFetchWord 8 0x85))).map (fun t => (t.hist.wire.length, t.eng.pend, t.eng.done)) =
      some (2, .none, true) := by decide

/-- 20_memory.md R65: a received byte is on the data line most significant bit first, and the master's NACK leaves it
high. -/
theorem test_line_received : sampled (busExpansion (.rx 0b10110001#8 .nack)) =
    [true, false, true, true, false, false, false, true, true] := by decide

/-! ### Witnesses: the hypotheses of each statement are met, clause by clause -/

/-- A sequencer's slots and data for each worked response of R106. -/
theorem witness_WorkedEncodings :
    let q := Seqr.reset
    (q.o1 = .notRun ∧ q.o2 = .notRun ∧ q.o3 = .notRun ∧ q.o4 = .notRun ∧ q.o0 = .notRun) ∧
    (∀ o ∈ [StepOutcome.ok, .timeout, .nack], ({ q with o0 := o } : Seqr).o0 = o) ∧
    (let p := { q with o0 := .ok, o1 := .ok, o2 := .ok, o3 := .ok, o4 := .ok, hi := 0x01#8, lo := 0x02#8 }
     p.o0 = .ok ∧ p.o1 = .ok ∧ p.o2 = .ok ∧ p.o3 = .ok ∧ p.o4 = .ok ∧ p.hi = 0x01#8 ∧ p.lo = 0x02#8) ∧
    (let p := { q with o0 := .ok, o1 := .nack }; p.o0 = .ok ∧ p.o1 = .nack ∧ p.o2 = .notRun) := by decide
     
theorem witness_DecodeEncodeAgree : (Instr.wreg 0x7F#7 0xFF#8 0xFF#8).wf = true := by decide

theorem witness_EncodeDecodeAgree :
    decode (.cmd 0x80FFFFFF#32) ≠ .instr (.wreg 0x7F#7 0xFF#8 0xFF#8) ∧
    decode (.cmd 0x807FFFFF#32) = .instr (.wreg 0x7F#7 0xFF#8 0xFF#8) ∧ decode (.ctl 0x85#8) = .instr (.eRxNack true) := by
  decide

theorem witness_CommandWordIffMatch :
    (Instr.write 0).cmdPattern = some (0x40000000#32, 0xFFFFFF00#32) ∧
    decodeCmd 0x400000FF#32 = .instr (.write 0xFF#8) ∧ decodeCmd 0x807F0102#32 = .instr (.wreg 0x7F#7 0x01#8 0x02#8) ∧
    decodeCmd 0x907F0100#32 = .instr (.rdw 0x7F#7 0x01#8) ∧ decodeCmd 0xA07F0000#32 = .instr (.probe 0x7F#7) ∧
    (0xB0000000#32).extractLsb' 28 4 ∈ [0x0#4, 0x7#4, 0xB#4, 0xC#4, 0xD#4, 0xE#4, 0xF#4] ∧
    decodeCmd 0x60000000#32 = .instr .rdNack := by decide

theorem witness_ControlWordIffMatch :
    (Instr.eTx true).ctlPattern = some (0x03#8, 0x7F#8) ∧ decodeCtl 0x83#8 = .instr (.eTx true) := by decide

theorem witness_IllegalWordAnswered :
    let s := withHost [.command 0x00800000#32] (withSched [.host, .seq] lab)
    legalCmd 0x00800000#32 = false ∧ s.port.busy = false ∧ s.inp.hostIn = [.command 0x00800000#32] ∧
    s.inp.sched = [.host, .seq] ∧
    (0x00800000#32).extractLsb' 28 4 ∈ [0x0#4, 0x7#4, 0xB#4, 0xC#4, 0xD#4, 0xE#4, 0xF#4] := by decide

theorem witness_AssemblerWords :
    (AsmLine.waddr 128 false).wf = false ∧ (AsmLine.waddr 127 true).wf = true ∧ (AsmLine.rstart).wf = true := by decide

/-- Both reserved codes, with and without ENSET, a word with a reserved bit, and a step that writes CTRL. -/
theorem witness_ReservedControlWordRefused :
    (∀ w ∈ [0x06#8, 0x07#8, 0x86#8, 0x87#8], w.extractLsb' 3 4 = 0#4 ∧
      (w.extractLsb' 0 3 = 0b110#3 ∨ w.extractLsb' 0 3 = 0b111#3) ∧ decodeCtl w = .bad .reservedCtrlOp) ∧
    (0x40#8).extractLsb' 3 4 ≠ 0#4 ∧
    (after (step (withSched [.seq] (accept 0x10000000#32 lab)))).map (fun t => t.hist.regs) =
      some [.ctrlWrite 0x80#8] := by decide

/-- A HOST turn, a SEQ turn that writes CTRL, one that writes DATA, and one that reads STAT. -/
theorem witness_OnlySequencerReachesRegisters :
    (let s := withHost [.command 0x10000000#32] (withSched [.host] lab)
     (after (step s)).map (fun t => (t.inp.turn, t.port.busy)) = some (.host, true)) ∧
    (let s := withSched [.seq] (accept 0x20000000#32 lab)
     (after (step s)).map (fun t => (t.inp.turn, t.hist.regs)) = some (.seq, [.ctrlWrite 0x01#8])) ∧
    (let s := withSched [.seq] (accept 0x400000FF#32 lab)
     (after (step s)).map (fun t => (t.inp.turn, t.hist.regs)) = some (.seq, [.dataWrite 0xFF#8])) ∧
    (after (step (withSched [.seq] hanging))).map (fun t => (t.inp.turn, t.hist.regs)) =
      some (.seq, [.statRead 0x00#8]) := by decide

theorem witness_EngineWordsRequest : lab.inp.turn ≠ .eng := by decide

theorem witness_StartPerformed :
    let s := engine .start false false
    s.inp.turn = .eng ∧ s.eng.en = true ∧ s.eng.stopReq = false ∧ s.eng.pend = .start ∧ (drawReady s).1 = true := by decide

theorem witness_StopPerformed :
    ∀ o ∈ [true, false],
      let s := engine .none o true
      s.inp.turn = .eng ∧ s.eng.en = true ∧ s.eng.stopReq = true ∧ (drawReady s).1 = true ∧ s.eng.isOpen = o := by decide

theorem witness_TransmitPerformed :
    let s := engine .tx true false
    s.inp.turn = .eng ∧ s.eng.en = true ∧ s.eng.stopReq = false ∧ s.eng.pend = .tx ∧ s.eng.isOpen = true ∧
      (drawReady s).1 = true := by decide

theorem witness_ReceptionPerformed :
    ∀ p ∈ [Pend.rxAck, .rxNack],
      let s := engine p true false
      s.inp.turn = .eng ∧ s.eng.en = true ∧ s.eng.stopReq = false ∧ s.eng.isOpen = true ∧ (drawReady s).1 = true ∧
      s.eng.pend = p := by decide

/-- Disabled; nothing to do; a byte operation on a closed bus; Env not ready. -/
theorem witness_EngineWaitsUntilEnabled :
    (withSched [.eng] lab).inp.sched = [.eng] ∧ lab.eng.en = false ∧
    ((engine .none true false).eng.stopReq = false ∧ (engine .none true false).eng.pend = .none) ∧
    ((engine .tx false false).eng.stopReq = false ∧ (engine .tx false false).eng.isOpen = false ∧
      (engine .tx false false).eng.pend ≠ .start) ∧
    (let s := engine .start false false
     (drawReady { s with inp := { s.inp with turn := .eng, sched := [], tick := 1, readyIn := [false] } }).1 = false) := by
  decide

theorem witness_EngineTouchesOnlyEngine :
    (Instr.eTx false).ctlPattern ≠ none ∧ Instr.eTx false ≠ .ctlEnset ∧ (engine .tx true false).inp.turn = .eng ∧
      (after (exec (.eTx false) (engine .tx true false))).isSome = true := by decide

/-- The latches and the turn; each kind of issue step; each operation requested, and a stop before one. -/
theorem witness_StepRunsDecodedInstruction :
    (let s := withSched [.seq] (accept 0x907FFF00#32 lab)
     s.inp.sched = [.seq] ∧ s.port.busy = true ∧ s.seq.legal = true ∧
      decodeCmd (s.seq.opc ++ 0#5 ++ s.seq.addr ++ s.seq.reg ++ s.seq.val) = .instr (.rdw 0x7F#7 0xFF#8)) ∧
    (primAt .enable 0 = some .enable ∧ (accept 0x10000000#32 lab).seq.phase = .idle) ∧
    (∀ x ∈ [(0#4, Prim.start), (1#4, .write), (3#4, .start), (4#4, .write), (5#4, .rdAck), (6#4, .rdNack), (7#4, .stop)],
      let s := withSched [.seq] (inside 0x90683B00#32 x.1 .idle .start)
      let s := { s with seq := { s.seq with wsub := decide (x.2 = Prim.write) } }
      s.port.busy = true ∧ s.seq.legal = true ∧ s.seq.phase = .idle ∧ (x.2 = Prim.write → s.seq.wsub = true) ∧
      decodeCmd (s.seq.opc ++ 0#5 ++ s.seq.addr ++ s.seq.reg ++ s.seq.val) = .instr (.rdw 0x68#7 0x3B#8) ∧
      primAt (.rdw 0x68#7 0x3B#8) s.seq.stepIdx.toNat = some x.2) ∧
    (∀ p ∈ [Pend.start, .tx, .rxAck, .rxNack], (withSched [.eng] (engine p true false)).eng.pend = p) ∧
    (withSched [.eng] (engine .tx true true)).eng.stopReq = true := by decide

theorem witness_AcceptStep :
    (let s := withHost [.command 0xA0680000#32] (withSched [.host] lab)
     s.inp.sched = [.host] ∧ s.inp.hostIn = [.command 0xA0680000#32] ∧ s.port.busy = false) ∧
    (let s := withHost [.command 0xA0680000#32] (withSched [.host] hanging)
     s.inp.sched = [.host] ∧ s.inp.hostIn = [.command 0xA0680000#32] ∧ s.port.busy = true ∧ (after (step s)).isSome = true) ∧
    (let s := withSched [.seq] (accept 0x70000000#32 lab)
     s.inp.sched = [.seq] ∧ s.port.busy = true ∧ s.seq.legal = false) := by decide

theorem witness_ResponseTaken :
    let s := withHost [.takeResponse] (withSched [.host] lab)
    let t := { s with hist := { s.hist with rsps := [0x03FC0000#32] } }
    s.inp.sched = [.host] ∧ s.inp.hostIn = [.takeResponse] ∧ s.port.busy = false ∧ s.hist.rsps = [] ∧ t.hist.rsps ≠ [] := by
  decide

/-- A step that faults, and one that is refused. -/
theorem witness_WhereAStepStops :
    (match step (withHost [.takeResponse] (withSched [.host] lab)) with | .fault .responseUnwritten => true | _ => false) = true ∧
    (match step (withHost [.reset] (withSched [.host] lab)) with | .refused .resetInsideRun => true | _ => false) = true := by
  decide

theorem witness_TransportIssueSteps : atIssue (accept 0x10000000#32 lab) 0 := by unfold atIssue; decide

theorem witness_WriteIssueSteps :
    let s := accept 0x400000D0#32 lab
    atIssue s 0 ∧ s.seq.wsub = false ∧ atIssue { s with seq := { s.seq with wsub := true } } 0 := by
  unfold atIssue; decide

theorem witness_WregIssuesItsTable :
    ∀ k ∈ [0#4, 1#4, 2#4, 3#4, 4#4], atIssue (inside 0x80686B00#32 k .idle .start) k := by unfold atIssue; decide

theorem witness_RdwIssuesItsTable :
    ∀ k ∈ [0#4, 1#4, 2#4, 3#4, 4#4, 5#4, 6#4, 7#4], atIssue (inside 0x90683B00#32 k .idle .start) k := by
  unfold atIssue; decide

theorem witness_ProbeIssuesItsTable : ∀ k ∈ [0#4, 1#4], atIssue (inside 0xA0680000#32 k .idle .start) k := by
  unfold atIssue; decide

/-- A poll that sees DONE; one with two polls left; the last one; a reception's. -/
theorem witness_PollIteration :
    isCommand .start = true ∧
    (let s := inside 0x20000000#32 0 .issued .start
     s.port.busy = true ∧ s.seq.phase = .issued ∧ s.eng.done = false ∧ s.seq.prim = .start ∧
      ({ s with eng := { s.eng with done := true } } : State).eng.done = true ∧
      ({ s with seq := { s.seq with cnt := 2 } } : State).seq.cnt ≠ 1 ∧
      ({ s with seq := { s.seq with cnt := 1 } } : State).seq.cnt = 1) ∧
    (hanging.port.busy = true ∧ hanging.seq.phase = .issued ∧ hanging.eng.done = false ∧ hanging.seq.prim = .rdAck) := by
  decide

/-- A timed-out start, a completed write, a completed reception of RDW, its last STOP. -/
theorem witness_RetireStep :
    ∀ x ∈ [(0#4, Phase.timedOut, Prim.start), (1#4, .completed, .write), (5#4, .completed, .rdAck), (7#4, .completed, .stop)],
      let s := inside 0x90683B00#32 x.1 x.2.1 x.2.2
      isCommand (.rdw 0x68#7 0x3B#8) = true ∧ s.port.busy = true ∧ (s.seq.phase = .completed ∨ s.seq.phase = .timedOut) ∧
      primAt (.rdw 0x68#7 0x3B#8) s.seq.stepIdx.toNat = some s.seq.prim ∧
      (s.seq.phase = .timedOut → s.seq.prim = .start ∨ s.seq.prim = .write) := by decide

theorem witness_RespondStep :
    (let s := inside 0x90683B00#32 8 .idle .stop
     isCommand (.rdw 0x68#7 0x3B#8) = true ∧ s.port.busy = true ∧ s.seq.phase = .idle ∧
      s.seq.stepIdx.toNat = lengthOf (.rdw 0x68#7 0x3B#8)) ∧
    (let s := withSched [.seq] (accept 0#32 lab)
     s.inp.sched = [.seq] ∧ s.port.busy = true ∧ s.seq.legal = false) := by decide

/-- With nothing pending, with an operation pending, with a stop requested; a command. -/
theorem witness_SequencerIdleWhileNotBusy :
    (∀ s ∈ [lab, engine .tx true false, engine .none true true],
      (withSched [.seq] s).inp.sched = [.seq] ∧ (withSched [.seq] s).port.busy = false) ∧
    isCommand (.probe 0x68#7) = true := by decide

/-- The first clause: a wait with one poll left and one with two, DONE seen and not, on every agent's turn. -/
theorem witness_GuardedWaitExactBudget_turns :
    ∀ x ∈ [(Agent.host, true, 1#16), (.eng, false, 1#16), (.seq, true, 1#16), (.seq, false, 1#16), (.seq, false, 2#16)],
      running (waiting x.1 x.2.1 x.2.2) ≠ none ∧ (waiting x.1 x.2.1 x.2.2).seq.phase = .issued ∧
      (waiting x.1 x.2.1 x.2.2).seq.prim = .start ∧
      (after (step (waiting x.1 x.2.1 x.2.2))).map (fun t => t.inp.turn) = some x.1 := by decide

/-- The other clauses. -/
theorem witness_GuardedWaitExactBudget :
    (let s := inside 0x90683B00#32 3 .idle .write
     isCommand (.rdw 0x68#7 0x3B#8) = true ∧ s.port.busy = true ∧ s.seq.phase = .idle ∧
      primAt (.rdw 0x68#7 0x3B#8) s.seq.stepIdx.toNat = some .start) ∧
    (let s := inside 0x90683B00#32 4 .idle .write
     primAt (.rdw 0x68#7 0x3B#8) s.seq.stepIdx.toNat = some .write ∧
      ({ s with seq := { s.seq with wsub := true } } : State).seq.wsub = true) ∧
    (let s := inside 0x90683B00#32 4 .issued .write
     let s := { s with seq := { s.seq with cnt := 2 } }
     s.port.busy = true ∧ s.seq.phase = .issued ∧ s.seq.prim = .write ∧ s.seq.cnt ≠ 0 ∧ s.eng.done = false ∧
      1 < s.seq.cnt.toNat) ∧
    (let s := inside 0x90683B00#32 4 .issued .write
     let u := { s with eng := { s.eng with done := true } }
     u.eng.done = true ∧ u.seq = s.seq ∧ u.port = s.port) := by decide

theorem witness_UnguardedWaitNeverGivesUp :
    isCommand .rdAck = true ∧ hanging.port.busy = true ∧ hanging.seq.phase = .issued ∧ hanging.seq.prim = .rdAck ∧
    hanging.eng.done = false ∧ hanging.seq.legal = true ∧ running hanging ≠ none ∧
    (after (step (withSched [.seq] hanging))).isSome = true ∧
    ({ hanging with eng := { hanging.eng with done := true } } : State).eng.done = true := by decide

theorem witness_EnableWhole :
    let s := accept 0x10000000#32 lab
    justAccepted .enable s ∧ s.seq.o1 = .notRun ∧ s.seq.o2 = .notRun ∧ s.seq.o3 = .notRun ∧ s.seq.o4 = .notRun := by
  unfold justAccepted; decide

theorem witness_StopWhole :
    let s := accept 0x30000000#32 lab
    justAccepted .stop s ∧ s.seq.o1 = .notRun ∧ s.seq.o2 = .notRun ∧ s.seq.o3 = .notRun ∧ s.seq.o4 = .notRun := by
  unfold justAccepted; decide

theorem witness_TimeoutWhole :
    (let s := accept 0x20000000#32 lab
     justAccepted .start s ∧ s.seq.o1 = .notRun ∧ s.seq.o2 = .notRun ∧ s.seq.o3 = .notRun ∧ s.seq.o4 = .notRun ∧
      s.par.budgetStart ≠ 0 ∧ s.par.budgetWrite ≠ 0) ∧
    justAccepted (.write 0xD0#8) (accept 0x400000D0#32 lab) := by
  unfold justAccepted; decide

/-- Each of the four, on an enabled engine and, but for START, an open bus. -/
theorem witness_PrimitivesWholePrompt :
    (let s := withSched (promptPrim ++ [.seq] ++ []) (accept 0x20000000#32 (engine .none false false))
     justAccepted .start s ∧ s.seq.o1 = .notRun ∧ s.seq.o2 = .notRun ∧ s.seq.o3 = .notRun ∧ s.seq.o4 = .notRun ∧
     s.eng.en = true ∧ s.eng.stopReq = false ∧ s.inp.readyIn = true :: [] ∧ s.inp.sched = promptPrim ++ [.seq] ++ []) ∧
    (let s := withSched (promptWrite ++ [.seq] ++ []) (accept 0x400000D0#32 (engine .none true false))
     justAccepted (.write 0xD0#8) s ∧ s.eng.isOpen = true ∧ s.inp.ackIn = true :: [] ∧
     (∃ t, Steps 6 s t ∧ t.port.rsp = 0x03FC0000#32)) ∧
    (let s := withSched (promptPrim ++ [.seq] ++ []) (accept 0x50000000#32 (engine .none true false))
     justAccepted .rdAck s ∧ s.eng.isOpen = true ∧ s.inp.byteIn = 0x01#8 :: [] ∧
     (∃ t, Steps 5 s t ∧ t.port.rsp = 0x03FC0001#32)) ∧
    (let s := withSched (promptPrim ++ [.seq] ++ []) (accept 0x60000000#32 (engine .none true false))
     justAccepted .rdNack s ∧ (∃ t, Steps 5 s t ∧ t.port.rsp = 0x03FC0001#32)) := by
  unfold justAccepted
  exact ⟨by decide, ⟨by decide, by decide, by decide, _, rfl, by decide⟩,
    ⟨by decide, by decide, by decide, _, rfl, by decide⟩, ⟨by decide, _, rfl, by decide⟩⟩

/-- START with the engine never stepping: issue, three polls, retire, respond. -/
theorem witness_PrimitivesIssuedWhateverFails :
    let s := withSched [.seq, .seq, .seq, .seq, .seq, .seq] (accept 0x20000000#32 lab)
    isCommand .start = true ∧ justAccepted .start s ∧ ∃ t u, respondsAfter 5 s t u ∧ u.hist.prims = [.start] := by
  refine ⟨by decide, by unfold justAccepted; decide, _, _, ⟨rfl, ?_, rfl, rfl⟩, rfl⟩
  intro k hk x h
  interval_cases k <;> cases h <;> rfl

/-- Just accepted; between the two issue steps of a WRITE; a wait; about to respond, with its step. -/
theorem witness_PrimitivesFollowTheSequence :
    (isCommand (.probe 0x68#7) = true ∧ justAccepted (.probe 0x68#7) (accept 0xA0680000#32 lab)) ∧
    (let s := withSched [.seq] (inside 0xA0680000#32 1 .idle .write)
     let s := { s with seq := { s.seq with wsub := true }, hist := { s.hist with prims := [.start, .writeByte 0xD0#8] } }
     issuedSoFar [] (.probe 0x68#7) s ∧ (after (step s)).isSome = true) ∧
    (let s := withSched [.seq] (inside 0xA0680000#32 0 .issued .start)
     let s := { s with hist := { s.hist with prims := [.stop, .start] } }
     issuedSoFar [.stop] (.probe 0x68#7) s ∧ (after (step s)).isSome = true) ∧
    (let s := withSched [.seq] (inside 0xA0680000#32 2 .idle .write)
     let s := { s with hist := { s.hist with prims := [.start, .writeByte 0xD0#8] } }
     issuedSoFar [] (.probe 0x68#7) s ∧ (after (step s)).map (fun t => t.port.busy) = some false) := by
  refine ⟨⟨by decide, by unfold justAccepted; decide⟩, ?_, ?_, ?_⟩ <;>
    exact ⟨⟨by decide, by decide, by decide, by decide, by decide⟩, by decide⟩

theorem witness_WregWholePrompt :
    let s := accept 0x80686B00#32 { lab with eng := { lab.eng with en := true } }
    let s := { s with inp := { s.inp with
      sched := promptPrim ++ promptWrite ++ promptWrite ++ promptWrite ++ promptStop ++ [.seq] ++ []
      readyIn := List.replicate 5 true ++ [], ackIn := [true, false, true] ++ [] } }
    justAccepted (.wreg 0x68#7 0x6B#8 0x00#8) s ∧ s.seq.o4 = .notRun ∧ s.eng.en = true ∧ s.eng.stopReq = false := by
  unfold justAccepted; decide

theorem witness_RdwWholePrompt :
    let s := accept 0x90683B00#32 { lab with eng := { lab.eng with en := true } }
    let s := { s with inp := { s.inp with
      sched := promptPrim ++ promptWrite ++ promptWrite ++ promptPrim ++ promptWrite ++ promptPrim ++ promptPrim ++
        promptStop ++ [.seq] ++ []
      readyIn := List.replicate 8 true ++ [], ackIn := [true, true, true] ++ [], byteIn := [0x01#8, 0x02#8] ++ [] } }
    justAccepted (.rdw 0x68#7 0x3B#8) s ∧ s.eng.en = true ∧ s.eng.stopReq = false := by
  unfold justAccepted; decide

theorem witness_ProbeWholePrompt :
    let s := accept 0xA0680000#32 { lab with eng := { lab.eng with en := true } }
    let s := { s with inp := { s.inp with
      sched := promptPrim ++ promptWrite ++ [.seq] ++ [], readyIn := List.replicate 2 true ++ [], ackIn := [false] ++ [] } }
    justAccepted (.probe 0x68#7) s ∧ s.seq.o2 = .notRun ∧ s.seq.o3 = .notRun ∧ s.seq.o4 = .notRun ∧ s.eng.en = true ∧
      s.eng.stopReq = false := by
  unfold justAccepted; decide

/-- A command accepted and about to be issued is a state with the invariant, and it steps. -/
theorem witness_InvariantKept :
    let s := withSched [.seq] (accept 0x90683B00#32 lab)
    Inv s ∧ ∃ t, step s = .next t := by
  refine ⟨?_, _, rfl⟩
  constructor
  case sequence => intro _ _; exact ⟨.rdw 0x68#7 0x3B#8, by decide, by decide, by decide⟩
  case device => intro d h; cases h
  all_goals decide

theorem witness_WireShapeKept :
    let s := withSched [.eng] (engine .start false false)
    wireShape s.hist.wire = some s.eng.isOpen ∧ (after (step s)).map (fun t => t.hist.wire) = some [.s] := by decide

/-- Each of the three reasons to hang. -/
theorem witness_HangIsForEver :
    (∀ f ∈ [(false, true, false), (true, false, false), (true, true, true)],
      let s : State := { hanging with eng := { hanging.eng with en := f.1, isOpen := f.2.1, stopReq := f.2.2 } }
      hung s = true ∧ running s ≠ none) ∧
    ∃ t, Steps 2 (withSched [.seq, .eng] hanging) t := by
  exact ⟨by decide, _, rfl⟩

theorem witness_NeverUndone :
    let s := withSched [.eng] (engine .start false false)
    s.eng.en = true ∧ ∃ t, step s = .next t := ⟨by decide, _, rfl⟩

/-- A stop performed with an operation waiting behind it, and an operation performed. -/
theorem witness_OnlyEngineMovesWire :
    (let s := withSched [.eng] (engine .tx true true)
     (after (step s)).map (fun t => (t.hist.wire, t.eng.pend)) = some ([.p], .tx) ∧ s.hist.wire = []) ∧
    (let s := withSched [.eng] (engine .tx true false)
     (after (step s)).map (fun t => (t.hist.wire, t.eng.pend)) = some ([.tx 0xD0#8 true], .none) ∧ s.hist.wire = []) := by
  decide

theorem witness_StepAdvancesByOne :
    (let s := withSched [.seq] (inside 0x20000000#32 0 .timedOut .start)
     s.port.busy = true ∧ (after (step s)).map (fun t => (t.seq.stepIdx, t.port.busy)) = some (1, true)) ∧
    (let s := withSched [.seq] (inside 0x20000000#32 1 .idle .start)
     s.port.busy = true ∧ (after (step s)).map (fun t => (t.seq.stepIdx, t.port.busy)) = some (1, false)) := by decide

/-- A retire step after a timeout, and a respond step. -/
theorem witness_TimeoutWithdrawsNothing :
    (let s := inside 0x20000000#32 0 .timedOut .start
     isCommand .start = true ∧ s.seq.phase ≠ .idle ∧ (after (exec .start s)).isSome = true) ∧
    (let s := inside 0x20000000#32 1 .idle .start
     s.seq.stepIdx.toNat = lengthOf .start ∧ (after (exec .start s)).map (fun t => t.port.busy) = some false) := by decide

theorem witness_QuiescentRests :
    ∀ a ∈ [Agent.seq, .eng],
      let s := withSched [a] lab
      quiescent s = true ∧ (after (step s)).map (fun t => t.inp.turn) = some a := by decide

theorem witness_ResetInsideRunRefused :
    let s := withHost [.reset] (withSched [.host] hanging)
    s.inp.sched = [.host] ∧ s.inp.hostIn = [.reset] := by decide

theorem witness_DeviceRegisterStore :
    let d : RefSlave := { addr := 0x68#7, mem := [(0xFF, 0x01#8)], ptr := 0xFF#8, mode := .addressedWrite, awaitAddr := false }
    d.mem.wf = true ∧ d.mode = .addressedWrite ∧ d.awaitAddr = false := by decide

end Sys2Proof.Tests
end

section
/-! Proofs of the family 00_scope.md: the direction constants and the address byte (R14). -/

namespace Sys2Proof.Proofs

open Sys2Proof Sys2Proof.Machine

/-- Settles O8: the formula is the definition of `addrByte`, and the bytes of the address 0x68 are read off as the
address in bits 7:1 followed by the direction in bit 0. -/
theorem addressByteForms : Obligations.AddressByteForms := by
  unfold Obligations.AddressByteForms
  have hwrite : addrByte 0x68#7 dirWrite = 0xD0#8 := by
    rw [addrByte_eq_append]
    rfl
  have hread : addrByte 0x68#7 dirRead = 0xD1#8 := by
    rw [addrByte_eq_append]
    rfl
  exact ⟨rfl, rfl, fun _ _ => rfl, hwrite, hread⟩

end Sys2Proof.Proofs
end

section
/-! Proofs of the family 30_encoding.md, command words (R96, R97, R102): a word decodes to the one command whose word it
is, and it is the word of a row's command exactly when it matches the row. -/

namespace Sys2Proof.Proofs

open Sys2Proof Sys2Proof.Machine Sys2Proof.Laws

/-! ### The decoder undoes the encoder -/

theorem encode_of_decodeFields {o : BitVec 4} {a : Addr} {r v : Byte} {i : Instr}
    (h : decodeFields o a r v = .instr i) : encode i = .cmd (cmdWord o a r v) := by
  unfold decodeFields at h
  split_ifs at h
  all_goals
    obtain ⟨rfl, ha, hr, hv⟩ := unused_eq_instr.mp h
    simp_all [encode]

/-- A command word decodes to the instruction whose word it is, and to no other. -/
theorem decodeCmd_eq_instr_iff {w : CmdWord} {i : Instr} : decodeCmd w = .instr i ↔ encode i = .cmd w := by
  constructor
  · intro h
    have hz : zeroOf w = 0 := zeroOf_of_legal (by rw [legalCmd, h]; rfl)
    rw [← cmdWord_of_fields w hz, decodeCmd_cmdWord] at h
    rw [encode_of_decodeFields h, cmdWord_of_fields w hz]
  · intro h
    cases i <;> cases h <;> simp [decodeFields, unused]

/-! ### The rows of the opcode table -/

/-- An instruction's word matches its row, at every operand value. -/
theorem rowPattern (i : Instr) : RowPattern.Statement i := by
  cases i with
  | enable => exact RowPattern.enable
  | start => exact RowPattern.start
  | stop => exact RowPattern.stop
  | write b => exact RowPattern.write b
  | rdAck => exact RowPattern.rdAck
  | rdNack => exact RowPattern.rdNack
  | wreg a r v => exact RowPattern.wreg a r v
  | rdw a r => exact RowPattern.rdw a r
  | probe a => exact RowPattern.probe a
  | eStart e => exact RowPattern.eStart e
  | eStop e => exact RowPattern.eStop e
  | eTx e => exact RowPattern.eTx e
  | eRxAck e => exact RowPattern.eRxAck e
  | eRxNack e => exact RowPattern.eRxNack e
  | ctlEnset => exact RowPattern.ctlEnset

/-- The mnemonic names the row: no two rows share one. -/
theorem cmdPattern_eq_of_mnemonic_eq {i j : Instr} (h : j.mnemonic = i.mnemonic) : j.cmdPattern = i.cmdPattern := by
  cases i <;> cases j <;> simp_all [Instr.mnemonic, Instr.cmdPattern]

theorem and_eq_of_encode {w m k : CmdWord} {i : Instr} (hrow : i.cmdPattern = some (m, k))
    (hw : encode i = .cmd w) : w &&& k = m := by
  obtain ⟨m', k', hrow', hmatch⟩ : matchesRow (.cmd w) i := hw ▸ rowPattern i
  obtain ⟨rfl, rfl⟩ : m' = m ∧ k' = k := by simpa using hrow'.symm.trans hrow
  exact hmatch

/-- A word that matches a row is put together from fields that match the row's fields, provided the row asks for bits
27:23 to be zero, as every row does (R96). -/
theorem exists_cmdWord_of_and_eq {w m k : CmdWord} (h : w &&& k = m) (hk : zeroOf k = BitVec.allOnes 5)
    (hm : zeroOf m = 0) : ∃ o a r v, w = cmdWord o a r v ∧ o &&& opcOf k = opcOf m ∧ a &&& addrOf k = addrOf m ∧
      r &&& regOf k = regOf m ∧ v &&& valOf k = valOf m := by
  have hz : zeroOf w = 0 := by
    rw [← BitVec.and_allOnes (x := zeroOf w), ← hk, ← hm, ← h]
    exact BitVec.extractLsb'_and.symm
  subst h
  exact ⟨_, _, _, _, (cmdWord_of_fields w hz).symm, BitVec.extractLsb'_and.symm, BitVec.extractLsb'_and.symm,
    BitVec.extractLsb'_and.symm, BitVec.extractLsb'_and.symm⟩

/-- Masking with all ones, for the masks of the fields. -/
theorem and_fieldMask : (∀ o : BitVec 4, o &&& 0xF#4 = o) ∧ (∀ a : Addr, a &&& 0x7F#7 = a) ∧
    (∀ b : Byte, b &&& 0xFF#8 = b) :=
  ⟨fun _ => BitVec.and_allOnes, fun _ => BitVec.and_allOnes, fun _ => BitVec.and_allOnes⟩

/-- A word that matches a row decodes to the row's command at some operands. -/
theorem exists_decodeCmd_of_and_eq {w m k : CmdWord} {i : Instr} (hrow : i.cmdPattern = some (m, k))
    (h : w &&& k = m) : ∃ j, decodeCmd w = .instr j ∧ j.mnemonic = i.mnemonic := by
  have hzero : zeroOf k = BitVec.allOnes 5 ∧ zeroOf m = 0 := by
    cases i <;> cases hrow <;> decide
  obtain ⟨o, a, r, v, rfl, ho, ha, hr, hv⟩ := exists_cmdWord_of_and_eq h hzero.1 hzero.2
  rw [decodeCmd_cmdWord]
  clear h hzero
  cases i <;> cases hrow <;>
    simp [opcOf, addrOf, regOf, valOf, and_fieldMask] at ho ha hr hv <;>
    simp [decodeFields, unused, Instr.mnemonic, *]

theorem exists_decodeCmd_iff_and_eq {w m k : CmdWord} {i : Instr} (hrow : i.cmdPattern = some (m, k)) :
    (∃ j, decodeCmd w = .instr j ∧ j.mnemonic = i.mnemonic) ↔ w &&& k = m := by
  constructor
  · rintro ⟨j, hj, hname⟩
    exact and_eq_of_encode (hrow ▸ cmdPattern_eq_of_mnemonic_eq hname) (decodeCmd_eq_instr_iff.mp hj)
  · exact exists_decodeCmd_of_and_eq hrow

/-! ### Opcodes -/

theorem not_reserved_of_decodeCmd {w : CmdWord} {i : Instr} (h : decodeCmd w = .instr i) :
    opcOf w ∉ [0x0#4, 0x7#4, 0xB#4, 0xC#4, 0xD#4, 0xE#4, 0xF#4] := by
  rw [decodeCmd_eq_instr_iff] at h
  cases i <;> cases h <;> simp

/-- Bit 31 is the high bit of the opcode. -/
theorem getLsbD_31_cmdWord (o : BitVec 4) (a : Addr) (r v : Byte) : (cmdWord o a r v).getLsbD 31 = o.getLsbD 3 := by
  simp only [cmdWord, BitVec.getLsbD_append]
  rfl

/-- The opcodes from 8 on are those of the register accesses. -/
theorem getLsbD_31_iff_registerAccess {w : CmdWord} {i : Instr} (h : decodeCmd w = .instr i) :
    w.getLsbD 31 = true ↔ i.mnemonic = "WREG" ∨ i.mnemonic = "RDW" ∨ i.mnemonic = "PROBE" := by
  rw [decodeCmd_eq_instr_iff] at h
  cases i <;> cases h <;> rw [getLsbD_31_cmdWord] <;> simp [Instr.mnemonic]

/-- Settles O4: matching a row is masking each field, and the operands are read off the word that the command encodes
to. -/
theorem commandWordIffMatch : Obligations.CommandWordIffMatch := by
  unfold Obligations.CommandWordIffMatch
  refine ⟨fun w m k i => exists_decodeCmd_iff_and_eq, ?write, ?wreg, ?rdw, ?probe,
    fun w hreserved i hi => not_reserved_of_decodeCmd hi hreserved, fun w i => getLsbD_31_iff_registerAccess⟩
  case write =>
    intro w b h
    cases decodeCmd_eq_instr_iff.mp h
    exact (valOf_cmdWord ..).symm
  case wreg =>
    intro w a r v h
    cases decodeCmd_eq_instr_iff.mp h
    exact ⟨(addrOf_cmdWord ..).symm, (regOf_cmdWord ..).symm, (valOf_cmdWord ..).symm⟩
  case rdw =>
    intro w a r h
    cases decodeCmd_eq_instr_iff.mp h
    exact ⟨(addrOf_cmdWord ..).symm, (regOf_cmdWord ..).symm⟩
  case probe =>
    intro w a h
    cases decodeCmd_eq_instr_iff.mp h
    exact (addrOf_cmdWord ..).symm

end Sys2Proof.Proofs
end

section
/-! Proofs of the family 30_encoding.md, response words (R100, R101, R106): a response word is the one the statements
write out from its fields, and each field stands at its place. -/

namespace Sys2Proof.Proofs

open Sys2Proof Sys2Proof.Machine

/-! ### The model's flags and data are the statements' -/

theorem claims_code_eq (o : StepOutcome) : Claims.code o = o.code := by cases o <;> rfl

theorem claims_isFailure_eq (o : StepOutcome) : Claims.isFailure o = o.failed := by cases o <;> rfl

theorem failed_iff (o : StepOutcome) : o.failed = true ↔ o = .timeout ∨ o = .nack := by
  cases o <;> decide

theorem failOf_iff (q : Seqr) :
    failOf q = true ↔ ∃ o ∈ [q.o0, q.o1, q.o2, q.o3, q.o4], o = .timeout ∨ o = .nack := by
  simp [failOf, failed_iff, or_assoc]

theorem rspWord_eq_response (ill : Bool) (q : Seqr) (d : BitVec 16) :
    rspWord ill q d = Claims.response ill q.o0 q.o1 q.o2 q.o3 q.o4 d := by
  simp only [rspWord, failOf, Claims.response, claims_code_eq, claims_isFailure_eq]

theorem dataOf_eq_resultData {i : Instr} (h : isCommand i = true) (q : Seqr) :
    dataOf i q = Claims.resultData i q := by
  cases i with
  | enable | start | stop | write | wreg | rdw => rfl
  | rdAck | rdNack => exact BitVec.setWidth_eq_append (v := 8) (w := 16) (by decide)
  | probe =>
    simp only [dataOf, dataAlive, aliveOf, Claims.resultData, ← Bool.decide_and]
    by_cases halive : q.o0 = .ok ∧ q.o1 = .ok <;> simp [halive]
  | eStart | eStop | eTx | eRxAck | eRxNack | ctlEnset => simp [isCommand, Instr.cmdPattern] at h

/-! ### The fields of a response word -/

/-- Settles O11: each field is found by passing over the fields below it, and FAIL is the disjunction over the slots. -/
theorem responseWordLayout : Obligations.ResponseWordLayout := by
  unfold Obligations.ResponseWordLayout
  intro ill q d
  have hill : (rspWord ill q d).getLsbD 31 = ill := by
    simp only [rspWord, BitVec.getLsbD_append]
    simp
  have hfail : (rspWord ill q d).getLsbD 30 = failOf q := by
    simp only [rspWord, BitVec.getLsbD_append]
    simp
  refine ⟨hill, hfail ▸ failOf_iff q, ?_⟩
  simp (disch := decide) only [rspWord, BitVec.extractLsb'_append_eq_of_le, claims_code_eq]
  refine ⟨?_, ?_, ?_, ?_, ?_, ?_, ?_⟩ <;> exact BitVec.extractLsb'_append_eq_right

/-- Settles O1: the command words decode because they are the encodings, and a response word depends on the slots and the
data only. -/
theorem workedEncodings : Obligations.WorkedEncodings := by
  unfold Obligations.WorkedEncodings
  simp only [decode, decodeCmd_eq_instr_iff, rspWord_eq_response]
  refine ⟨by decide, by decide, ?_, ?_, ?_⟩
  · intro q h1 h2 h3 h4
    rw [h1, h2, h3, h4]
    refine ⟨?_, ?_, ?_, ?_⟩ <;> (intro h0; rw [h0]; rfl)
  · intro q h0 h1 h2 h3
    rw [h0, h1, h2, h3]
    refine ⟨?_, ?_⟩
    · intro h4; rw [h4]; rfl
    · intro h4 hhi hlo; rw [h4, dataWord, hhi, hlo]; rfl
  · intro q h0 h2 h3 h4
    rw [dataAlive, aliveOf, h0, h2, h3, h4]
    refine ⟨?_, ?_⟩ <;> (intro h1; rw [h1]; rfl)

end Sys2Proof.Proofs
end

section
/-! Proofs of the family 30_encoding.md, the respond step (R100, R101, R144) and the control write (R93). -/

namespace Sys2Proof.Proofs

open Sys2Proof Sys2Proof.Machine

/-! ### The end of a sequence -/

theorem length_seqOf (i : Instr) : (seqOf i).length = Claims.lengthOf i := by cases i <;> rfl

theorem exec_respond {i : Instr} {s : State} (hcmd : isCommand i = true) (hbusy : s.port.busy = true)
    (hphase : s.seq.phase = .idle) (hend : s.seq.stepIdx.toNat = Claims.lengthOf i) :
    exec i s = .next (respond (dataOf i) s) := by
  have hrow : rowAt (seqOf i) s.seq.stepIdx = none := by
    rw [rowAt, hend, ← length_seqOf]
    exact List.getElem?_length _
  rw [exec_command hcmd, seqStep_respond hbusy hphase hrow]

/-! ### A turn of SEQ -/

theorem takeTurn_cons {s : State} {a : Agent} {as : List Agent} (h : s.inp.sched = a :: as) :
    takeTurn s = { s with inp := { s.inp with turn := a, sched := as, tick := s.inp.tick + 1 } } := by
  simp [takeTurn, h]

theorem step_seq {s : State} {as : List Agent} (h : s.inp.sched = .seq :: as) :
    step s = runFetched (fetchSeq (takeTurn s)) := by
  simp [step, fetch, takeTurn_cons h]

/-- An accepted word that is no command is answered at once (R102). -/
theorem fetchSeq_illegal {s : State} (hbusy : s.port.busy = true) (hillegal : s.seq.legal = false) :
    fetchSeq s = .answer (.next (respondIllegal s)) := by
  simp [fetchSeq, hbusy, hillegal]

/-- Settles O32: at the end of its sequence a command responds, and `deliver` writes the port and the history of
responses only. -/
theorem respondStep : Obligations.RespondStep := by
  unfold Obligations.RespondStep
  constructor
  · intro i s hcmd hbusy hphase hend
    rw [exec_respond hcmd hbusy hphase hend, respond, rspWord_eq_response, dataOf_eq_resultData hcmd]
    rfl
  · intro s as hsched hbusy hillegal
    rw [step_seq hsched, fetchSeq_illegal (by simpa using hbusy) (by simpa using hillegal), takeTurn_cons hsched,
      respondIllegal, rspWord_eq_response]
    rfl

/-- Settles O12: each operation code is one case of `Engine.ctlWrite`, and a write of CTRL touches the engine and the
register trace only. -/
theorem triggerWriteEffect : Obligations.TriggerWriteEffect := by
  unfold Obligations.TriggerWriteEffect
  constructor
  · intro enset s
    exact ⟨rfl, rfl, rfl, rfl, rfl, rfl⟩
  · intro enset op s
    simp

end Sys2Proof.Proofs
end

section
/-! Proofs of the family 41_transport_primitives.md, the accept step (R140): which agent's turn does what to the command
in execution, and that no step while `BUSY = 1` writes a latched operand. -/

namespace Sys2Proof.Proofs

open Sys2Proof Sys2Proof.Machine

/-! ### A turn of HOST -/

theorem step_host {s : State} {as : List Agent} (h : s.inp.sched = .host :: as) :
    step s = runFetched (fetchHost (takeTurn s)) := by
  simp [step, fetch, takeTurn_cons h]

/-- A command word presented while `BUSY = 0` is accepted. -/
theorem fetchHost_command {s : State} {w : CmdWord} {rest : List HostMove} (hin : s.inp.hostIn = .command w :: rest)
    (hbusy : s.port.busy = false) : fetchHost s = .answer (.next (accept w (hostDone rest s))) := by
  simp [fetchHost, hin, hbusy]

/-- While `BUSY = 1` a turn of HOST that answers a next state changes nothing: the host's move waits. -/
theorem eq_of_fetchHost_busy {s t : State} (hbusy : s.port.busy = true) (h : runFetched (fetchHost s) = .next t) :
    t = s := by
  unfold fetchHost at h
  split at h
  · cases h; rfl
  · cases h
  · rw [if_pos hbusy] at h; cases h; rfl
  · rw [if_pos hbusy] at h; cases h; rfl

/-- While `BUSY = 1` a presented command word waits. -/
theorem fetchHost_command_busy {s : State} {w : CmdWord} {rest : List HostMove} (hin : s.inp.hostIn = .command w :: rest)
    (hbusy : s.port.busy = true) : fetchHost s = .answer (.next s) := by
  simp [fetchHost, hin, hbusy]

/-! ### A turn of ENG -/

/-- The command in execution, its response still to come, is left as it was, on a turn of the same agent. -/
structure KeepsCommand (s t : State) : Prop where
  seq : t.seq = s.seq
  port : t.port = s.port
  rsps : t.hist.rsps = s.hist.rsps
  turn : t.inp.turn = s.inp.turn

theorem KeepsCommand.refl (s : State) : KeepsCommand s s := ⟨rfl, rfl, rfl, rfl⟩

theorem KeepsCommand.trans {s t u : State} (h : KeepsCommand s t) (h' : KeepsCommand t u) : KeepsCommand s u :=
  ⟨h'.seq.trans h.seq, h'.port.trans h.port, h'.rsps.trans h.rsps, h'.turn.trans h.turn⟩

theorem drawReady_keepsCommand (s : State) : KeepsCommand s (drawReady s).2 := by
  constructor <;> simp

/-- No engine operation touches the command in execution (R128). -/
theorem performs_keepsCommand {u : State} {f : State → State} (h : Performs u f) (s : State) : KeepsCommand s (f s) := by
  cases h with
  | start => constructor <;> simp [performStart]
  | stop => cases hopen : s.eng.isOpen <;> constructor <;> simp [performStop, hopen]
  | tx => constructor <;> simp [performTx]
  | rxAck | rxNack => constructor <;> simp [performRx]

theorem engTurn_keepsCommand {can : Engine → Bool} {f : State → State} {s : State}
    (h : can s.eng = true → Performs s f) : KeepsCommand s (engTurn can f s) := by
  rcases engTurn_cases can f s with ⟨-, h'⟩ | ⟨-, -, h'⟩ | ⟨hcan, -, h'⟩ <;> rw [h']
  · exact .refl s
  · exact drawReady_keepsCommand s
  · exact (drawReady_keepsCommand s).trans (performs_keepsCommand (h hcan) _)

/-- A turn of ENG comes to the operation requested, if there is one. -/
theorem runFetched_fetchEng {s : State} (hturn : s.inp.turn = .eng) :
    runFetched (fetchEng s) = .next s ∨
    ∃ can f, (can s.eng = true → Performs s f) ∧ runFetched (fetchEng s) = .next (engTurn can f s) := by
  have hop {e op can f} : engineOp e op can f s = engTurn can f s := if_pos hturn
  unfold fetchEng
  split
  · exact .inr ⟨canStop, performStop, .stop, congrArg _ hop⟩
  · split
    · exact .inl rfl
    · exact .inr ⟨canStart, performStart, .start, congrArg _ hop⟩
    · exact .inr ⟨canTx, performTx, .tx, congrArg _ hop⟩
    · exact .inr ⟨canRxAck, performRx .ack, .rxAck, congrArg _ hop⟩
    · exact .inr ⟨canRxNack, performRx .nack, .rxNack, congrArg _ hop⟩

theorem fetchEng_keepsCommand {s t : State} (hturn : s.inp.turn = .eng) (h : runFetched (fetchEng s) = .next t) :
    KeepsCommand s t := by
  rcases runFetched_fetchEng hturn with h' | ⟨can, f, hf, h'⟩ <;> rw [h'] at h <;> cases h
  · exact .refl s
  · exact engTurn_keepsCommand hf

/-! ### Any agent's turn while a command is in execution -/

theorem takeTurn_running (s : State) : running (takeTurn s) = running s := by
  simp [running]

theorem fetchSeq_running {s : State} {i : Instr} (h : running s = some i) : fetchSeq s = .run i s := by
  obtain ⟨hbusy, hlegal, hdecode⟩ := running_busy h
  simp [fetchSeq, hbusy, hlegal, hdecode]

/-- While a command is in execution a turn of SEQ is a step of its cycle, and no other turn touches it (R141). -/
theorem step_running {s t : State} {i : Instr} (hrun : running s = some i) (h : step s = .next t) :
    ((takeTurn s).inp.turn = .seq ∧ t = seqStep (seqOf i) (dataOf i) (takeTurn s)) ∨
    ((takeTurn s).inp.turn ≠ .seq ∧ KeepsCommand (takeTurn s) t) := by
  unfold step fetch at h
  dsimp only at h
  split at h
  · next hturn =>
    have hbusy : (takeTurn s).port.busy = true := by simpa using (running_busy hrun).1
    rw [eq_of_fetchHost_busy hbusy h]
    exact .inr ⟨by simp [hturn], .refl _⟩
  · next hturn =>
    rw [fetchSeq_running ((takeTurn_running s).trans hrun), runFetched, exec_command (running_isCommand hrun)] at h
    cases h
    exact .inl ⟨hturn, rfl⟩
  · next hturn => exact .inr ⟨by simp [hturn], fetchEng_keepsCommand hturn h⟩

/-! ### The latched operands -/

/-- What the accept step latches of the word: its fields, and whether it is legal. -/
def operandsOf (q : Seqr) : BitVec 4 × Addr × Byte × Byte × Bool := (q.opc, q.addr, q.reg, q.val, q.legal)

theorem issue_operands (op : PrimOp) (s : State) : operandsOf (issue op s).seq = operandsOf s.seq := by
  cases op with
  | write b => cases hsub : s.seq.wsub <;> simp [issue, hsub, issueWriteLoad, issueWriteTrigger, operandsOf]
  | enable | start | stop | rdAck | rdNack => rfl

theorem poll_operands (s : State) : operandsOf (poll s).seq = operandsOf s.seq := by
  rw [poll_seq, Seqr.poll]
  split_ifs <;> rfl

theorem retire_operands (row : SeqRow) (s : State) : operandsOf (retire row s).seq = operandsOf s.seq := by
  rw [retire_seq]
  simp [operandsOf, Seqr.advance, latchIf_frame, reportIf_frame]

theorem seqStep_operands (rows : List SeqRow) (d : Seqr → BitVec 16) {s : State} (hbusy : s.port.busy = true) :
    operandsOf (seqStep rows d s).seq = operandsOf s.seq := by
  rcases seqStep_cases rows d s hbusy with ⟨row, -, -, h⟩ | ⟨-, -, h⟩ | ⟨-, h⟩ | ⟨-, h⟩ <;> rw [h]
  · exact issue_operands _ _
  · rfl
  · exact poll_operands _
  · exact retire_operands _ _

/-- While `BUSY = 1` no step writes a latched operand. -/
theorem step_operands {s t : State} (hbusy : s.port.busy = true) (h : step s = .next t) :
    operandsOf t.seq = operandsOf s.seq := by
  have hbusy' : (takeTurn s).port.busy = true := by simpa using hbusy
  rw [← takeTurn_seq s]
  cases step_cases h with
  | idle => rfl
  | accepted w rest hb | took rest hb => exact absurd (hb.symm.trans hbusy') Bool.false_ne_true
  | illegal => rfl
  | ran i => exact seqStep_operands _ _ hbusy'
  | notReady => rw [drawReady_seq]
  | performed f hf => rw [(performs_keepsCommand hf _).seq, drawReady_seq]

/-- Settles O22: an accepted word is latched field by field; while `BUSY = 1` the host's turn is idle and no step writes a
latch; the answer to a word that is not legal is the respond step of R144. -/
theorem acceptStep : Obligations.AcceptStep := by
  unfold Obligations.AcceptStep
  refine ⟨?accept, ?operands, ?illegal⟩
  case accept =>
    intro s w rest as hsched hin
    have hin' : (takeTurn s).inp.hostIn = .command w :: rest := by simpa using hin
    rw [step_host hsched]
    constructor
    · intro hbusy
      rw [fetchHost_command hin' (by simpa using hbusy), takeTurn_cons hsched]
      rfl
    · intro hbusy
      rw [fetchHost_command_busy hin' (by simpa using hbusy)]
      exact ⟨takeTurn s, rfl, by simp [Claims.sameBlock], by simp⟩
  case operands =>
    intro s t hbusy h
    simpa [operandsOf] using step_operands hbusy h
  case illegal =>
    intro s as hsched hbusy hillegal
    obtain ⟨-, hanswer⟩ := respondStep
    refine ⟨_, hanswer s as hsched hbusy hillegal, rfl, ?_, rfl, rfl, rfl, rfl, rfl⟩
    rw [← rspWord_eq_response]
    exact (responseWordLayout true s.seq 0#16).1

end Sys2Proof.Proofs
end

section
/-! Proofs of the family 41_transport_primitives.md, the retire step (R151): the rows of the sequence tables are those the
statements write out, and so are the outcome and the writes of the step. -/

namespace Sys2Proof.Proofs

open Sys2Proof Sys2Proof.Machine

/-! ### The rows of the sequence tables (R141, R170) -/

/-- The row at a step that has a primitive: its primitive, its slot, and the latch it fills, which it has for a reception
only. -/
theorem rowAt_of_primAt {i : Instr} {k : BitVec 4} {p : Prim} (h : Claims.primAt i k.toNat = some p) :
    ∃ row, rowAt (seqOf i) k = some row ∧ row.op.prim = p ∧ row.slot.map Fin.val = Claims.slotAt i k.toNat ∧
      Claims.latchesHi i k.toNat = decide (row.latch = some .hi) ∧
      Claims.latchesLo i k.toNat = decide (row.latch = some .lo) ∧ row.latch.isSome = p.reception := by
  rw [rowAt]
  generalize k.toNat = n at h
  unfold Claims.primAt at h
  split at h <;> cases h <;> exact ⟨_, rfl, rfl, rfl, rfl, rfl, rfl⟩

theorem exec_issue {i : Instr} {s : State} {row : SeqRow} (hcmd : isCommand i = true) (hbusy : s.port.busy = true)
    (hphase : s.seq.phase = .idle) (hrow : rowAt (seqOf i) s.seq.stepIdx = some row) :
    exec i s = .next (issue row.op s) := by
  rw [exec_command hcmd, seqStep_issue hbusy hphase hrow]

theorem exec_retire {i : Instr} {s : State} (hcmd : isCommand i = true) (hbusy : s.port.busy = true)
    (hphase : s.seq.phase = .completed ∨ s.seq.phase = .timedOut) :
    exec i s = .next (retire (retireRow (seqOf i) s.seq.stepIdx) s) := by
  rw [exec_command hcmd, seqStep_retire hbusy hphase]

theorem retireRow_of_rowAt {rows : List SeqRow} {k : BitVec 4} {row : SeqRow} (h : rowAt rows k = some row) :
    retireRow rows k = row := by
  simp [retireRow, h]

/-! ### What the retire step writes -/

theorem outcomeOf_eq_outcome (s : State) : outcomeOf s = Claims.outcome s := by
  rw [outcomeOf, Claims.outcome, looksAtAck, statAcked_statWord]
  cases s.seq.prim <;> cases s.seq.phase <;> cases s.eng.acked <;> rfl

theorem reportIf_eq_setSlot (q : Seqr) (slot : Option (Fin 5)) (o : StepOutcome) :
    q.reportIf slot o = Claims.setSlot (slot.map Fin.val) o q := by
  match slot with
  | none | some 0 | some 1 | some 2 | some 3 | some 4 => rfl

theorem latchIf_eq (q : Seqr) (l : Option Latch) (b : Byte) :
    q.latchIf l b = { q with hi := if l = some .hi then b else q.hi, lo := if l = some .lo then b else q.lo } := by
  match l with
  | none | some .hi | some .lo => rfl

/-- The registers a retire step reads: STAT if it looks at ACKED, DATA if it latches a byte (R154). -/
theorem retire_hist (row : SeqRow) (s : State) :
    (retire row s).hist = { s.hist with regs := s.hist.regs ++
      (if looksAtAck s.seq then [.statRead (Claims.statByte s)] else []) ++
      (if row.latch.isSome then [.dataRead s.eng.data] else []) } := by
  change (traceRetire row s).hist = _
  cases hlook : looksAtAck s.seq <;> cases hlatch : row.latch.isSome <;>
    simp [traceRetire, hlook, hlatch, statWord, Claims.statByte]

theorem looksAtAck_iff {q : Seqr} (h : q.phase = .completed ∨ q.phase = .timedOut) :
    looksAtAck q = true ↔ q.prim = .write ∧ q.phase = .completed := by
  rcases h with h | h <;> simp [looksAtAck, h]

theorem reception_iff (p : Prim) : p.reception = true ↔ p = .rdAck ∨ p = .rdNack := by
  cases p <;> decide

/-- Settles O31: the row at STEP is the one the tables give, and the retire step reports into its slot, fills its latch and
advances. -/
theorem retireStep : Obligations.RetireStep := by
  unfold Obligations.RetireStep
  intro i s hcmd hbusy hphase hprim _
  obtain ⟨row, hrow, -, hslot, hhi, hlo, hlatch⟩ := rowAt_of_primAt hprim
  refine ⟨retire row s, ?_, ?_, retire_eng _ _, retire_port _ _, retire_inp _ _, retire_par _ _, ?_⟩
  · rw [exec_retire hcmd hbusy hphase, retireRow_of_rowAt hrow]
  · have hframe := reportIf_frame s.seq row.slot (outcomeOf s)
    rw [reportIf_eq_setSlot, hslot, outcomeOf_eq_outcome] at hframe
    rw [retire_seq, latchIf_eq, reportIf_eq_setSlot, hslot, outcomeOf_eq_outcome]
    simp only [Seqr.advance, hhi, hlo, hframe, decide_eq_true_eq]
  · simp only [retire_hist, looksAtAck_iff hphase, hlatch, reception_iff]

end Sys2Proof.Proofs
end

section
/-! Proofs of the family 41_transport_primitives.md, the waits (R142, R143): a poll of a guarded wait takes one from CNT,
a poll of an unguarded wait that does not see DONE takes nothing, and no other agent's turn does either. -/

namespace Sys2Proof.Proofs

open Sys2Proof Sys2Proof.Machine

/-! ### The sequencer's part of a poll -/

theorem poll_true (q : Seqr) : q.poll true = { q with phase := .completed } := rfl

theorem poll_false_guarded {q : Seqr} (hphase : q.phase = .issued) (hprim : q.prim = .start ∨ q.prim = .write) :
    q.poll false = { q with cnt := q.cnt - 1, phase := if q.cnt = 1 then .timedOut else .issued } := by
  have hguarded : q.prim.guarded = true := by rcases hprim with h | h <;> rw [h] <;> rfl
  have hlast : q.cnt - 1 = 0 ↔ q.cnt = 1 := sub_eq_zero
  simp only [Seqr.poll, hguarded, Seqr.countDown, hlast, hphase, if_true, Bool.false_eq_true, if_false]

theorem poll_false_reception {q : Seqr} (hprim : q.prim = .rdAck ∨ q.prim = .rdNack) : q.poll false = q := by
  rcases hprim with h | h <;> simp [Seqr.poll, h, Prim.guarded]

/-! ### A poll of a command -/

/-- The histories after `k` reads of STAT that all find what STAT holds at `s`. -/
def statReads (k : Nat) (s : State) : History :=
  { s.hist with regs := s.hist.regs ++ List.replicate k (.statRead (Claims.statByte s)) }

theorem statReads_succ (k : Nat) (s : State) : statReads (k + 1) s =
    { statReads k s with regs := (statReads k s).regs ++ [.statRead (Claims.statByte s)] } := by
  simp [statReads, List.replicate_succ']

theorem poll_eq (s : State) : poll s = { s with
    seq := s.seq.poll s.eng.done
    hist := { s.hist with regs := s.hist.regs ++ [.statRead (Claims.statByte s)] } } := by
  simp only [poll, statDone_statWord]
  rfl

/-- The command `i` is in execution and SEQ polls next. -/
structure Waits (i : Instr) (s : State) : Prop where
  command : isCommand i = true
  busy : s.port.busy = true
  phase : s.seq.phase = .issued

theorem Waits.exec_eq {i : Instr} {s : State} (h : Waits i s) : exec i s = .next (poll s) := by
  rw [exec_command h.command, seqStep_poll h.busy h.phase]

/-- A step of any agent while a command waits: SEQ polls, and no other agent touches the command. -/
theorem step_waiting {s t : State} (hrun : running s ≠ none) (hphase : s.seq.phase = .issued) (h : step s = .next t) :
    t.port = s.port ∧ t.hist.rsps = s.hist.rsps ∧
      (t.inp.turn = .seq → t.eng = s.eng ∧ t.seq = s.seq.poll s.eng.done) ∧ (t.inp.turn ≠ .seq → t.seq = s.seq) := by
  obtain ⟨i, hrun⟩ := Option.ne_none_iff_exists'.mp hrun
  rcases step_running hrun h with ⟨hturn, rfl⟩ | ⟨hturn, hkeeps⟩
  · have hbusy : (takeTurn s).port.busy = true := by simpa using (running_busy hrun).1
    rw [seqStep_poll hbusy (by simpa using hphase), poll_eq]
    exact ⟨takeTurn_port s, by simp, fun _ => by simp, fun hne => absurd hturn hne⟩
  · rw [← hkeeps.turn] at hturn
    exact ⟨hkeeps.port.trans (takeTurn_port s), by rw [hkeeps.rsps, takeTurn_hist],
      fun heq => absurd heq hturn, fun _ => hkeeps.seq.trans (takeTurn_seq s)⟩

/-! ### Many polls -/

theorem execMany_succ {i : Instr} {n : Nat} {s t : State} (h : execMany i n s = .next t) :
    execMany i (n + 1) s = exec i t := by
  induction n generalizing s with
  | zero =>
    cases h
    cases hexec : exec i t <;> simp [execMany, hexec]
  | succ n ih =>
    rw [execMany] at h ⊢
    cases hexec : exec i s with
    | next u =>
      rw [hexec] at h
      exact ih h
    | fault | refused => simp [hexec] at h

/-- Any number of polls of an unguarded wait that do not see DONE show in the register trace only. -/
theorem execMany_reception {i : Instr} {s : State} (hwaits : Waits i s)
    (hprim : s.seq.prim = .rdAck ∨ s.seq.prim = .rdNack) (hdone : s.eng.done = false) (n : Nat) :
    execMany i n s = .next { s with hist := statReads n s } := by
  induction n with
  | zero => simp [execMany, statReads]
  | succ n ih =>
    have hwaits' : Waits i { s with hist := statReads n s } := ⟨hwaits.command, hwaits.busy, hwaits.phase⟩
    rw [execMany_succ ih, hwaits'.exec_eq, poll_eq, hdone, poll_false_reception hprim, statReads_succ]
    rfl

/-- A guarded wait after `k` polls that have not seen DONE, Issued or TimedOut. -/
def afterPolls (k : Nat) (p : Phase) (s : State) : State :=
  { s with seq := { s.seq with cnt := s.seq.cnt - BitVec.ofNat 16 k, phase := p }, hist := statReads k s }

theorem afterPolls_zero {s : State} (hphase : s.seq.phase = .issued) : afterPolls 0 .issued s = s := by
  simp [afterPolls, statReads, ← hphase]

/-- CNT after `k` polls within the budget is the budget less `k`. -/
theorem afterPolls_cnt {k : Nat} {p : Phase} {s : State} (hk : k ≤ s.seq.cnt.toNat) :
    (afterPolls k p s).seq.cnt.toNat = s.seq.cnt.toNat - k := by
  have hcnt := s.seq.cnt.isLt
  simp only [afterPolls, BitVec.toNat_sub, BitVec.toNat_ofNat]
  omega

/-- One more poll: the wait goes on unless one poll was left. -/
theorem poll_afterPolls {k : Nat} {s : State} (hprim : s.seq.prim = .start ∨ s.seq.prim = .write)
    (hdone : s.eng.done = false) (hk : k ≤ s.seq.cnt.toNat) :
    poll (afterPolls k .issued s) = afterPolls (k + 1) (if s.seq.cnt.toNat = k + 1 then .timedOut else .issued) s := by
  have hcnt : (afterPolls k .issued s).seq.cnt - 1 = s.seq.cnt - BitVec.ofNat 16 (k + 1) := by
    rw [BitVec.ofNat_add]
    exact sub_sub _ _ _
  have hlast : (afterPolls k .issued s).seq.cnt = 1 ↔ s.seq.cnt.toNat = k + 1 := by
    rw [← BitVec.toNat_inj, afterPolls_cnt hk, show (1 : BitVec 16).toNat = 1 from rfl]
    omega
  rw [poll_eq, show (afterPolls k .issued s).eng.done = false from hdone,
    poll_false_guarded (q := (afterPolls k .issued s).seq) rfl hprim, hcnt]
  simp only [hlast]
  rw [afterPolls.eq_1 (k + 1), statReads_succ]
  rfl

theorem exec_afterPolls {i : Instr} {k : Nat} {s : State} (hwaits : Waits i s)
    (hprim : s.seq.prim = .start ∨ s.seq.prim = .write) (hdone : s.eng.done = false) (hk : k ≤ s.seq.cnt.toNat) :
    exec i (afterPolls k .issued s) =
      .next (afterPolls (k + 1) (if s.seq.cnt.toNat = k + 1 then .timedOut else .issued) s) := by
  have hwaits' : Waits i (afterPolls k .issued s) := ⟨hwaits.command, hwaits.busy, rfl⟩
  rw [hwaits'.exec_eq, poll_afterPolls hprim hdone hk]

/-- A guarded wait that has not seen DONE is still Issued while polls of its budget are left. -/
theorem execMany_guarded {i : Instr} {k : Nat} {s : State} (hwaits : Waits i s)
    (hprim : s.seq.prim = .start ∨ s.seq.prim = .write) (hdone : s.eng.done = false) (hk : k < s.seq.cnt.toNat) :
    execMany i k s = .next (afterPolls k .issued s) := by
  induction k with
  | zero => rw [afterPolls_zero hwaits.phase, execMany]
  | succ k ih =>
    rw [execMany_succ (ih (by omega)), exec_afterPolls hwaits hprim hdone (by omega), if_neg (by omega)]

/-- A guarded wait that has not seen DONE is TimedOut by the last poll of its budget. -/
theorem execMany_budget {i : Instr} {s : State} (hwaits : Waits i s)
    (hprim : s.seq.prim = .start ∨ s.seq.prim = .write) (hdone : s.eng.done = false) (hcnt : s.seq.cnt ≠ 0) :
    execMany i s.seq.cnt.toNat s = .next (afterPolls s.seq.cnt.toNat .timedOut s) := by
  obtain ⟨k, hk⟩ : ∃ k, s.seq.cnt.toNat = k + 1 :=
    Nat.exists_eq_succ_of_ne_zero fun h => hcnt (BitVec.eq_of_toNat_eq h)
  rw [hk, execMany_succ (execMany_guarded hwaits hprim hdone (by omega)),
    exec_afterPolls hwaits hprim hdone (by omega), if_pos hk]

/-! ### The budget -/

/-- The issue step of START loads BUDGET_START (R146). -/
theorem issue_start_loads {op : PrimOp} (s : State) (h : op.prim = .start) :
    (issue op s).seq = { s.seq with prim := .start, cnt := s.par.budgetStart, phase := .issued } := by
  cases op <;> cases h
  rfl

/-- The second issue step of WRITE loads BUDGET_WRITE (R148). -/
theorem issue_write_loads {op : PrimOp} {s : State} (h : op.prim = .write) (hsub : s.seq.wsub = true) :
    (issue op s).seq = { s.seq with cnt := s.par.budgetWrite, wsub := false, phase := .issued } := by
  cases op <;> cases h
  simp [issue, hsub, issueWriteTrigger]

/-- After TimedOut the retire step does not look at STAT. -/
theorem retire_timedOut_regs {row : SeqRow} {s : State} (h : s.seq.phase = .timedOut) :
    ∃ xs, (retire row s).hist.regs = s.hist.regs ++ xs ∧ ∀ x, RegAccess.statRead x ∉ xs := by
  have hlook : looksAtAck s.seq = false := by simp [looksAtAck, h]
  refine ⟨if row.latch.isSome then [.dataRead s.eng.data] else [], by simp [retire_hist, hlook], ?_⟩
  intro x
  split <;> simp

/-- Settles O34: by induction on the number of polls, CNT being the budget less the polls taken; the turns between the
polls are those of `step_waiting`. -/
theorem guardedWaitExactBudget : Obligations.GuardedWaitExactBudget := by
  unfold Obligations.GuardedWaitExactBudget
  refine ⟨?turns, ?loads, ?polls⟩
  case turns =>
    intro s t hrun hphase hprim h
    obtain ⟨hport, -, hseq, hother⟩ := step_waiting hrun hphase h
    refine ⟨hport, hother, fun hturn => (hseq hturn).1, fun hturn hdone => ?_, fun hturn hdone => ?_⟩
    · rw [(hseq hturn).2, hdone, poll_true]
    · rw [(hseq hturn).2, hdone, poll_false_guarded hphase hprim]
  case loads =>
    intro i s hcmd hbusy hphase
    constructor
    · intro hat
      obtain ⟨row, hrow, hprim, -⟩ := rowAt_of_primAt hat
      exact ⟨_, exec_issue hcmd hbusy hphase hrow, issue_start_loads s hprim⟩
    · intro hat hsub
      obtain ⟨row, hrow, hprim, -⟩ := rowAt_of_primAt hat
      exact ⟨_, exec_issue hcmd hbusy hphase hrow, issue_write_loads hprim hsub⟩
  case polls =>
    intro i s hcmd hbusy hphase hprim hcnt hdone
    have hwaits : Waits i s := ⟨hcmd, hbusy, hphase⟩
    constructor
    · intro k hk
      refine ⟨_, execMany_guarded hwaits hprim hdone hk, rfl, afterPolls_cnt hk.le, rfl, rfl, rfl, ?_⟩
      intro u hudone hseq hport
      have huwaits : Waits i u := ⟨hcmd, by rw [hport]; exact hbusy, by rw [hseq]; rfl⟩
      refine ⟨_, huwaits.exec_eq, ?_⟩
      rw [poll_seq, hudone, poll_true, hseq]
    · refine ⟨_, execMany_budget hwaits hprim hdone hcnt, rfl, ?_, rfl, rfl, rfl, ?_⟩
      · exact BitVec.eq_of_toNat_eq ((afterPolls_cnt le_rfl).trans (Nat.sub_self _))
      · intro u hseq hport
        have huphase : u.seq.phase = .timedOut := by rw [hseq]; rfl
        have hubusy : u.port.busy = true := by rw [hport]; exact hbusy
        obtain ⟨xs, hregs, hstat⟩ := retire_timedOut_regs huphase
        exact ⟨_, xs, exec_retire hcmd hubusy (.inr huphase), by rw [retire_seq]; rfl, hregs, hstat⟩

/-- Settles O35: a poll that does not see DONE leaves the sequencer of a reception as it was, and so does every other
agent's turn. -/
theorem unguardedWaitNeverGivesUp : Obligations.UnguardedWaitNeverGivesUp := by
  unfold Obligations.UnguardedWaitNeverGivesUp
  refine ⟨?done, ?polls, ?turns⟩
  case done =>
    intro i s hcmd hbusy hphase _ hdone
    have hwaits : Waits i s := ⟨hcmd, hbusy, hphase⟩
    rw [hwaits.exec_eq, poll_eq, hdone, poll_true]
  case polls =>
    intro i s n hcmd hbusy hphase hprim hdone
    exact execMany_reception ⟨hcmd, hbusy, hphase⟩ hprim hdone n
  case turns =>
    intro s t _ _ hrun hphase hprim hdone h
    obtain ⟨hport, hrsps, hseq, hother⟩ := step_waiting hrun hphase h
    refine ⟨hport, ?_, hrsps⟩
    by_cases hturn : t.inp.turn = .seq
    · rw [(hseq hturn).2, hdone, poll_false_reception hprim]
    · exact hother hturn

end Sys2Proof.Proofs
end

section
/-! Proofs of the family 30_encoding.md, sections 1, 2 and 5: a word of either interface decodes to the one instruction
whose word it is, and the assembler's words are the instructions' words (R91, R92, R97, R104, R105). -/

namespace Sys2Proof.Proofs

open Sys2Proof Sys2Proof.Machine Sys2Proof.Laws

/-! ### Words of either interface -/

/-- There are 256 control words and 15 instructions' rows, so this is read off. -/
theorem encode_of_decodeCtl {w : Byte} {i : Instr} (h : decodeCtl w = .instr i) : encode i = .ctl w := by
  have hall : ∀ w : Byte, ∀ i, (decodeCtl w).toOption = some i → encode i = .ctl w := by decide
  exact hall w i (by rw [h]; rfl)

theorem decodeCtl_ctrlWord {i : Instr} {e : Bool} {op : CtlOp} (h : i.ctlFields = some (e, op)) :
    decodeCtl (ctrlWord e op) = .instr i := by
  cases i <;> cases h <;> simp [decodeCtl, CtlOp.code]

/-- A control word decodes to the instruction whose word it is, and to no other. -/
theorem decodeCtl_eq_instr_iff {w : Byte} {i : Instr} : decodeCtl w = .instr i ↔ encode i = .ctl w := by
  refine ⟨encode_of_decodeCtl, fun h => ?_⟩
  cases i <;> cases h <;> exact decodeCtl_ctrlWord rfl

theorem decode_eq_instr_iff {x : IfaceWord} {i : Instr} : decode x = .instr i ↔ encode i = x := by
  cases x with
  | cmd w => exact decodeCmd_eq_instr_iff
  | ctl w => exact decodeCtl_eq_instr_iff

/-- Settles O2: the instruction is the one whose word is its own encoding. -/
theorem decodeEncodeAgree : Obligations.DecodeEncodeAgree := by
  unfold Obligations.DecodeEncodeAgree
  intro i _
  exact decode_eq_instr_iff.mpr rfl

/-- Settles O3: the other direction of `decode_eq_instr_iff`. -/
theorem encodeDecodeAgree : Obligations.EncodeDecodeAgree := by
  unfold Obligations.EncodeDecodeAgree
  intro x i
  exact decode_eq_instr_iff.mp

/-! ### The rows of the control register -/

theorem ctlPattern_eq_of_mnemonic_eq {i j : Instr} (h : j.mnemonic = i.mnemonic) : j.ctlPattern = i.ctlPattern := by
  cases i <;> cases j <;> simp_all [Instr.mnemonic, Instr.ctlPattern]

theorem and_eq_of_encode_ctl {w m k : Byte} {i : Instr} (hrow : i.ctlPattern = some (m, k))
    (hw : encode i = .ctl w) : w &&& k = m := by
  obtain ⟨m', k', hrow', hmatch⟩ : matchesRow (.ctl w) i := hw ▸ rowPattern i
  obtain ⟨rfl, rfl⟩ : m' = m ∧ k' = k := by simpa using hrow'.symm.trans hrow
  exact hmatch

/-- A control word that matches a row decodes to the row's instruction at some ENSET bit. -/
theorem exists_decodeCtl_of_and_eq {w m k : Byte} {i : Instr} (hrow : i.ctlPattern = some (m, k))
    (h : w &&& k = m) : ∃ j, decodeCtl w = .instr j ∧ j.mnemonic = i.mnemonic := by
  have hall : ∀ w : Byte,
      (w &&& 0x7F#8 = 0x01#8 → decodeCtl w = .instr (.eStart (ensetOf w))) ∧
      (w &&& 0x7F#8 = 0x02#8 → decodeCtl w = .instr (.eStop (ensetOf w))) ∧
      (w &&& 0x7F#8 = 0x03#8 → decodeCtl w = .instr (.eTx (ensetOf w))) ∧
      (w &&& 0x7F#8 = 0x04#8 → decodeCtl w = .instr (.eRxAck (ensetOf w))) ∧
      (w &&& 0x7F#8 = 0x05#8 → decodeCtl w = .instr (.eRxNack (ensetOf w))) ∧
      (w &&& 0xFF#8 = 0x80#8 → decodeCtl w = .instr .ctlEnset) := by decide
  obtain ⟨hstart, hstop, htx, hack, hnack, henset⟩ := hall w
  cases i <;> cases hrow
  case eStart => exact ⟨_, hstart h, rfl⟩
  case eStop => exact ⟨_, hstop h, rfl⟩
  case eTx => exact ⟨_, htx h, rfl⟩
  case eRxAck => exact ⟨_, hack h, rfl⟩
  case eRxNack => exact ⟨_, hnack h, rfl⟩
  case ctlEnset => exact ⟨_, henset h, rfl⟩

/-- Settles O5: a word that decodes is the word of an instruction, whose row it matches; the words that match a row are
its instruction's with the ENSET bit they have. -/
theorem controlWordIffMatch : Obligations.ControlWordIffMatch := by
  unfold Obligations.ControlWordIffMatch
  intro w m k i hrow
  refine ⟨⟨?_, exists_decodeCtl_of_and_eq hrow⟩, fun j => decodeCtl_eq_instr_iff.mp⟩
  rintro ⟨j, hj, hname⟩
  exact and_eq_of_encode_ctl (hrow ▸ ctlPattern_eq_of_mnemonic_eq hname) (decodeCtl_eq_instr_iff.mp hj)

/-! ### The assembler (R104, R105) -/

theorem asmInstr_eq_none_iff {l : AsmLine} : asmInstr l = none ↔ l.wf = false := by
  unfold asmInstr
  cases hwf : l.wf <;> cases l <;> simp

theorem addrOk_toNat (a : Addr) : addrOk a.toNat = true := by
  simpa [addrOk] using a.isLt

theorem byteOk_toNat (b : Byte) : byteOk b.toNat = true := by
  simpa [byteOk] using b.isLt

/-- WADDR's byte is the address followed by the direction bit. -/
theorem waddrByte_eq_append (a : Addr) (d : Bool) :
    BitVec.ofNat 8 (waddrByte a.toNat d) = a ++ BitVec.ofBool d := by
  revert a d; decide

/-- Settles O7: every line in range has one instruction, whose word is put together from its fields. -/
theorem assemblerWords : Obligations.AssemblerWords := by
  unfold Obligations.AssemblerWords
  refine ⟨?illFormed, ?wellFormed, rfl, rfl, rfl, rfl, rfl, rfl, ?waddr, ?wreg, ?rdw, ?probe, ?write⟩
  case illFormed =>
    intro l h
    rw [asmWord, asmInstr_eq_none_iff.mpr h]
    rfl
  case wellFormed =>
    intro l h
    rw [asmWord, Option.isSome_map, Option.isSome_iff_ne_none, ne_eq, asmInstr_eq_none_iff, h]
    decide
  case waddr =>
    intro a
    constructor <;> simp [asmWord, asmInstr, AsmLine.wf, addrOk_toNat, waddrByte_eq_append, encode, cmdWord]
  case wreg =>
    intro a r v
    simp [asmWord, asmInstr, AsmLine.wf, addrOk_toNat, byteOk_toNat, encode, cmdWord]
  case rdw =>
    intro a r
    simp [asmWord, asmInstr, AsmLine.wf, addrOk_toNat, byteOk_toNat, encode, cmdWord]
  case probe =>
    have happend : ∀ a : Addr, 0xA0#8 ++ 0#1 ++ a ++ 0#16 = cmdWord 0xA#4 a 0 0 := by decide
    intro a
    rw [happend]
    simp [asmWord, asmInstr, AsmLine.wf, addrOk_toNat, encode]
  case write =>
    intro b
    simp [asmWord, asmInstr, AsmLine.wf, byteOk_toNat, encode, cmdWord]

end Sys2Proof.Proofs
end

section
/-! Proofs about what stands beside the machine: the 16-bit result and the status register (20_memory.md R64,
30_encoding.md R94), the line level (20_memory.md R65, R69) and the reference device's registers (20_memory.md R71). -/

namespace Sys2Proof.Proofs

open Sys2Proof Sys2Proof.Machine

/-! ### Result and status -/

theorem toNat_wordOf (hi lo : Byte) : (wordOf hi lo).toNat = 256 * hi.toNat + lo.toNat := by
  rw [wordOf, BitVec.toNat_append, Nat.shiftLeft_eq, Nat.mul_comm, Nat.two_pow_add_eq_or_of_lt lo.isLt]

/-- Settles O9: the sign bit of `HI ++ LO` is that of HI. -/
theorem wordIsBigEndianSigned : Obligations.WordIsBigEndianSigned := by
  unfold Obligations.WordIsBigEndianSigned
  intro hi lo
  have hlo := lo.isLt
  rw [toSigned16, BitVec.toInt_eq_toNat_cond, toNat_wordOf]
  split_ifs <;> omega

/-- Settles O10: a read of STAT is an entry of the register trace. -/
theorem statusRegisterLayout : Obligations.StatusRegisterLayout := by
  unfold Obligations.StatusRegisterLayout
  intro s
  refine ⟨statDone_statWord s.eng, statAcked_statWord s.eng, ?_, rfl⟩
  exact BitVec.extractLsb'_append_eq_right

/-! ### The line level (log 8) -/

theorem busExpansion_tx (b : Byte) (a : Bool) :
    busExpansion (.tx b a) = sendByte clockBit b ++ clockBit (!a) := by
  rw [busExpansion, lineExpansion, deviceExpansion, List.zipWith_append (by rfl), wired_sent]
  simp [clockBit, deviceBit, wired, ackLevel]

theorem busExpansion_rx (b : Byte) (p : Policy) :
    busExpansion (.rx b p) = sendByte clockBit b ++ clockBit (decide (p = .nack)) := by
  rw [busExpansion, lineExpansion, deviceExpansion, List.zipWith_append (by rfl), wired_received]
  cases p <;> rfl

theorem sampled_busExpansion_tx (b : Byte) (a : Bool) : sampled (busExpansion (.tx b a)) =
    [b.getLsbD 7, b.getLsbD 6, b.getLsbD 5, b.getLsbD 4, b.getLsbD 3, b.getLsbD 2, b.getLsbD 1, b.getLsbD 0, !a] := by
  rw [busExpansion_tx, sampled_append, sampled_sendByte, sampled_clockBit]
  rfl

/-- Settles O57: on the wired lines a byte is the sender's clocks, and the ninth clock is the receiver's. -/
theorem lineLevelBits : Obligations.LineLevelBits := by
  unfold Obligations.LineLevelBits
  refine ⟨sampled_busExpansion_tx, ?received, ?address, by decide, ?clock⟩
  case received =>
    intro b p
    rw [busExpansion_rx, sampled_append, sampled_sendByte, sampled_clockBit]
    rfl
  case address =>
    intro a d x
    simp only [sampled_busExpansion_tx, BitVec.getLsbD_append]
    simp
  case clock =>
    intro e
    cases e with
    | s | sr | p => rfl
    | tx b a => simp [busExpansion_tx, clockBit]
    | rx b p => simp [busExpansion_rx, clockBit]

/-! ### The reference device's registers -/

theorem read_erase (m : Memory) (k : Nat) (b : Byte) :
    Memory.read (m.erase k) b = if b.toNat = k then Memory.unlisted else m.read b := by
  induction m with
  | nil => simp [Memory.erase, Memory.read]
  | cons c rest ih =>
    by_cases hc : c.1 = k
    · rw [Memory.erase, if_pos hc, ih, Memory.read]
      grind
    · rw [Memory.erase, if_neg hc, Memory.read, Memory.read, ih]
      grind

theorem read_insert {m : Memory} {k : Nat} (v b : Byte) (hk : ∀ c ∈ m, c.1 ≠ k) :
    Memory.read (m.insert k v) b = if b.toNat = k then v else m.read b := by
  induction m with
  | nil => simp [Memory.insert, Memory.read, eq_comm]
  | cons c rest ih =>
    obtain ⟨hne, hrest⟩ := List.forall_mem_cons.mp hk
    by_cases hlt : k < c.1
    · rw [Memory.insert, if_pos hlt, Memory.read]
      grind
    · rw [Memory.insert, if_neg hlt, Memory.read, Memory.read, ih hrest]
      grind

theorem read_write (m : Memory) (a b v : Byte) : (m.write a v).read b = if b = a then v else m.read b := by
  rw [Memory.write]
  by_cases hv : v = Memory.unlisted
  · rw [if_pos hv, read_erase, hv]
    simp only [BitVec.toNat_inj]
  · rw [if_neg hv, read_insert v b (Memory.erase_forall m a.toNat), read_erase]
    simp only [BitVec.toNat_inj]
    split_ifs <;> rfl

/-- Settles O55: erasing a register, and inserting one that is not listed, touch the reading of no other. -/
theorem deviceRegisterStore : Obligations.DeviceRegisterStore := by
  unfold Obligations.DeviceRegisterStore
  refine ⟨fun m a b v _ => read_write m a b v, ?_⟩
  intro d b a r _ hmode hawait
  have hstore : d.observe (.tx b a) = { d with mem := d.mem.write d.ptr b, ptr := d.ptr + 1 } := by
    simp [RefSlave.observe, hawait, RefSlave.onData, hmode]
  rw [hstore]
  exact ⟨read_write d.mem d.ptr r b, rfl⟩

end Sys2Proof.Proofs
end

section
/-! Proofs about the issue steps (41_transport_primitives.md R145 to R150, 42_register_access.md R170): each is the next
state the statements write out, and each sequence table issues its primitives in order. -/

namespace Sys2Proof.Proofs

open Sys2Proof Sys2Proof.Machine

/-! ### The next state of each issue step -/

@[simp] theorem issue_enable (s : State) : issue .enable s = Claims.afterEnable s := by
  simp [issue, issueEnable, Claims.afterEnable, ctlWrite, Engine.ctlWrite, traceReg, ctrlWord, CtlOp.code]

@[simp] theorem issue_start (s : State) : issue .start s = Claims.afterStart s := by
  simp [issue, issueStart, Claims.afterStart, ctlWrite, Engine.ctlWrite, traceReg, traceCall, ctrlWord, CtlOp.code]

@[simp] theorem issue_stop (s : State) : issue .stop s = Claims.afterStop s := by
  simp [issue, issueStop, Claims.afterStop, ctlWrite, Engine.ctlWrite, traceReg, traceCall, ctrlWord, CtlOp.code]

theorem issue_write_load {s : State} (b : Byte) (hsub : s.seq.wsub = false) :
    issue (.write b) s = Claims.afterLoad b s := by
  simp [issue, hsub, issueWriteLoad, Claims.afterLoad, writeData, traceReg, traceCall]

theorem issue_write_trigger {s : State} (b : Byte) (hsub : s.seq.wsub = true) :
    issue (.write b) s = Claims.afterTrigger s := by
  simp [issue, hsub, issueWriteTrigger, Claims.afterTrigger, ctlWrite, Engine.ctlWrite, traceReg, ctrlWord, CtlOp.code]

@[simp] theorem issue_rdAck (s : State) : issue .rdAck s = Claims.afterRdAck s := by
  simp [issue, issueRdAck, Claims.afterRdAck, ctlWrite, Engine.ctlWrite, traceReg, traceCall, ctrlWord, CtlOp.code]

@[simp] theorem issue_rdNack (s : State) : issue .rdNack s = Claims.afterRdNack s := by
  simp [issue, issueRdNack, Claims.afterRdNack, ctlWrite, Engine.ctlWrite, traceReg, traceCall, ctrlWord, CtlOp.code]

/-! ### The issue steps of a command -/

theorem exec_atIssue {i : Instr} {k : BitVec 4} {s t : State} {row : SeqRow} (hcmd : isCommand i = true)
    (hat : Claims.atIssue s k) (hrow : rowAt (seqOf i) k = some row) (ht : issue row.op s = t) : exec i s = .next t := by
  obtain ⟨hbusy, hphase, hstep⟩ := hat
  rw [exec_issue hcmd hbusy hphase (hstep ▸ hrow), ht]

/-- A WRITE of a sequence loads DATA and then triggers the transmission (R148). -/
theorem writeIssues_atIssue {i : Instr} {k : BitVec 4} {s : State} {row : SeqRow} {b : Byte} (hcmd : isCommand i = true)
    (hat : Claims.atIssue s k) (hrow : rowAt (seqOf i) k = some row) (hop : row.op = .write b) :
    Claims.writeIssues i b s :=
  ⟨fun hsub => exec_atIssue hcmd hat hrow (hop ▸ issue_write_load b hsub),
    fun hsub => exec_atIssue hcmd hat hrow (hop ▸ issue_write_trigger b hsub)⟩

/-- Settles O25: each of the five is the only row of its own sequence. -/
theorem transportIssueSteps : Obligations.TransportIssueSteps := by
  unfold Obligations.TransportIssueSteps
  intro s hat
  exact ⟨exec_atIssue rfl hat rfl (issue_enable s), exec_atIssue rfl hat rfl (issue_start s),
    exec_atIssue rfl hat rfl (issue_stop s), exec_atIssue rfl hat rfl (issue_rdAck s),
    exec_atIssue rfl hat rfl (issue_rdNack s)⟩

/-- Settles O26: WRITE is the only row of its own sequence. -/
theorem writeIssueSteps : Obligations.WriteIssueSteps := by
  unfold Obligations.WriteIssueSteps
  intro b s hat
  exact writeIssues_atIssue rfl hat rfl rfl

/-- Settles O27: the rows of WREG's table, the address byte being the address and the direction bit. -/
theorem wregIssuesItsTable : Obligations.WregIssuesItsTable := by
  unfold Obligations.WregIssuesItsTable
  intro a r v s
  refine ⟨?start, ?addr, ?reg, ?val, ?stop⟩ <;> intro hat
  case start => exact exec_atIssue rfl hat rfl (issue_start s)
  case addr => exact writeIssues_atIssue rfl hat rfl (congrArg _ (addrByte_eq_append a _))
  case reg => exact writeIssues_atIssue rfl hat rfl rfl
  case val => exact writeIssues_atIssue rfl hat rfl rfl
  case stop => exact exec_atIssue rfl hat rfl (issue_stop s)

/-- Settles O28: the rows of RDW's table, the second address byte having the read direction. -/
theorem rdwIssuesItsTable : Obligations.RdwIssuesItsTable := by
  unfold Obligations.RdwIssuesItsTable
  intro a r s
  refine ⟨?start, ?addr, ?reg, ?restart, ?addrRead, ?rdAck, ?rdNack, ?stop⟩ <;> intro hat
  case start => exact exec_atIssue rfl hat rfl (issue_start s)
  case addr => exact writeIssues_atIssue rfl hat rfl (congrArg _ (addrByte_eq_append a _))
  case reg => exact writeIssues_atIssue rfl hat rfl rfl
  case restart => exact exec_atIssue rfl hat rfl (issue_start s)
  case addrRead => exact writeIssues_atIssue rfl hat rfl (congrArg _ (addrByte_eq_append a _))
  case rdAck => exact exec_atIssue rfl hat rfl (issue_rdAck s)
  case rdNack => exact exec_atIssue rfl hat rfl (issue_rdNack s)
  case stop => exact exec_atIssue rfl hat rfl (issue_stop s)

/-- Settles O29: the two rows of PROBE's table. -/
theorem probeIssuesItsTable : Obligations.ProbeIssuesItsTable := by
  unfold Obligations.ProbeIssuesItsTable
  intro a s
  refine ⟨?start, ?addr⟩ <;> intro hat
  case start => exact exec_atIssue rfl hat rfl (issue_start s)
  case addr => exact writeIssues_atIssue rfl hat rfl (congrArg _ (addrByte_eq_append a _))

/-! ### Polls of a command -/

/-- Settles O30: a poll of a guarded wait that does not see DONE takes one from CNT, and the last one ends the wait. -/
theorem pollIteration : Obligations.PollIteration := by
  unfold Obligations.PollIteration
  intro i s hcmd hbusy hphase
  rw [Waits.exec_eq ⟨hcmd, hbusy, hphase⟩, poll_eq]
  refine ⟨?done, ?waits, ?last, ?reception⟩
  case done =>
    intro hdone
    rw [hdone, poll_true]
  case waits =>
    intro hdone hprim hcnt
    rw [hdone, poll_false_guarded hphase hprim, if_neg hcnt, ← hphase]
  case last =>
    intro hdone hprim hcnt
    rw [hdone, poll_false_guarded hphase hprim, if_pos hcnt, hcnt]
    rfl
  case reception =>
    intro hdone hprim
    rw [hdone, poll_false_reception hprim]

end Sys2Proof.Proofs
end

section
/-! Proofs about the turns (00_scope.md R9, 40_bus_engine.md R120): what a step can have been, agent by agent, where it can
stop, and when the block rests. -/

namespace Sys2Proof.Proofs

open Sys2Proof Sys2Proof.Machine

/-! ### What a step can have been -/

/-- What a turn taken at `u` can come to: `Moved`, with the agent whose turn it is. -/
inductive Acted (u : State) : State → Prop
  | waits : Acted u u
  | accepts (hturn : u.inp.turn = .host) (w : CmdWord) (rest : List HostMove) (hbusy : u.port.busy = false) :
      Acted u (accept w (hostDone rest u))
  | takes (hturn : u.inp.turn = .host) (rest : List HostMove) (hbusy : u.port.busy = false) :
      Acted u { hostDone rest u with hist := { u.hist with taken := u.hist.taken ++ [u.port.rsp] } }
  | answers (hturn : u.inp.turn = .seq) (hbusy : u.port.busy = true) (hrun : running u = none) :
      Acted u (respondIllegal u)
  | runs (hturn : u.inp.turn = .seq) (i : Instr) (hrun : running u = some i) :
      Acted u (seqStep (seqOf i) (dataOf i) u)
  | asks (hturn : u.inp.turn = .eng) : Acted u (drawReady u).2
  | performs (hturn : u.inp.turn = .eng) (hready : (drawReady u).1 = true) (f : State → State) (hf : Performs u f) :
      Acted u (f (drawReady u).2)

theorem acted_engTurn {u : State} {can : Engine → Bool} {f : State → State} (hturn : u.inp.turn = .eng)
    (hf : can u.eng = true → Performs u f) : Acted u (engTurn can f u) := by
  rcases engTurn_cases can f u with ⟨-, h⟩ | ⟨-, -, h⟩ | ⟨hcan, hready, h⟩ <;> rw [h]
  · exact .waits
  · exact .asks hturn
  · exact .performs hturn hready f (hf hcan)

/-- The four turns of HOST: nothing to do or a wait, a word accepted, a response taken, a reset asserted. -/
theorem runFetched_fetchHost (u : State) :
    runFetched (fetchHost u) = .next u ∨
    (∃ w rest, u.port.busy = false ∧ runFetched (fetchHost u) = .next (accept w (hostDone rest u))) ∨
    (∃ rest, u.inp.hostIn = .takeResponse :: rest ∧ u.port.busy = false ∧
      runFetched (fetchHost u) = takeResponse (hostDone rest u)) ∨
    (∃ rest, u.inp.hostIn = .reset :: rest ∧ runFetched (fetchHost u) = .refused .resetInsideRun) := by
  cases hbusy : u.port.busy <;> unfold fetchHost <;> split
  · exact .inl rfl
  · next rest hin => exact .inr (.inr (.inr ⟨rest, hin, rfl⟩))
  · next w rest hin => exact .inr (.inl ⟨w, rest, rfl, by simp [hbusy, runFetched]⟩)
  · next rest hin => exact .inr (.inr (.inl ⟨rest, hin, rfl, by simp [hbusy, runFetched]⟩))
  · exact .inl rfl
  · next rest hin => exact .inr (.inr (.inr ⟨rest, hin, rfl⟩))
  · exact .inl (by simp [hbusy, runFetched])
  · exact .inl (by simp [hbusy, runFetched])

theorem takeResponse_eq (u : State) : (u.hist.rsps = [] ∧ takeResponse u = .fault .responseUnwritten) ∨
    (u.hist.rsps ≠ [] ∧ takeResponse u = .next { u with hist := { u.hist with taken := u.hist.taken ++ [u.port.rsp] } }) := by
  by_cases hrsps : u.hist.rsps = [] <;> simp [takeResponse, hrsps]

/-- The turns of SEQ: none while `BUSY = 0`, an illegal word answered, a step of the command in execution. -/
theorem runFetched_fetchSeq (u : State) :
    (u.port.busy = false ∧ runFetched (fetchSeq u) = .next u) ∨
    (u.port.busy = true ∧ running u = none ∧ runFetched (fetchSeq u) = .next (respondIllegal u)) ∨
    ∃ i, running u = some i ∧ runFetched (fetchSeq u) = .next (seqStep (seqOf i) (dataOf i) u) := by
  cases hrun : running u with
  | some i =>
    refine .inr (.inr ⟨i, rfl, ?_⟩)
    rw [fetchSeq_running hrun, runFetched, exec_command (running_isCommand hrun)]
  | none =>
    cases hbusy : u.port.busy
    · exact .inl ⟨rfl, by simp [fetchSeq, hbusy, runFetched]⟩
    · refine .inr (.inl ⟨rfl, rfl, ?_⟩)
      cases hlegal : u.seq.legal
      · rw [fetchSeq_illegal hbusy hlegal]
        rfl
      · cases hd : decodeCmd (latchedWord u.seq) with
        | instr j => simp [running, hbusy, hlegal, hd, Decoded.toOption] at hrun
        | bad e => simp [fetchSeq, hbusy, hlegal, hd, runFetched]

theorem step_eq (s : State) : step s = match (takeTurn s).inp.turn with
    | .host => runFetched (fetchHost (takeTurn s))
    | .seq => runFetched (fetchSeq (takeTurn s))
    | .eng => runFetched (fetchEng (takeTurn s)) := by
  rw [step, fetch]
  cases (takeTurn s).inp.turn <;> rfl

theorem step_acted {s t : State} (h : step s = .next t) : Acted (takeTurn s) t := by
  rw [step_eq] at h
  split at h
  · next hturn =>
    rcases runFetched_fetchHost (takeTurn s) with h' | ⟨w, rest, hbusy, h'⟩ | ⟨rest, -, hbusy, h'⟩ | ⟨rest, -, h'⟩ <;>
      rw [h'] at h
    · cases h; exact .waits
    · cases h; exact .accepts hturn w rest hbusy
    · rcases takeResponse_eq (hostDone rest (takeTurn s)) with ⟨-, h'⟩ | ⟨-, h'⟩ <;> rw [h'] at h <;> cases h
      exact .takes hturn rest hbusy
    · cases h
  · next hturn =>
    rcases runFetched_fetchSeq (takeTurn s) with ⟨-, h'⟩ | ⟨hbusy, hrun, h'⟩ | ⟨i, hrun, h'⟩ <;> rw [h'] at h <;> cases h
    · exact .waits
    · exact .answers hturn hbusy hrun
    · exact .runs hturn i hrun
  · next hturn =>
    rcases runFetched_fetchEng hturn with h' | ⟨can, f, hf, h'⟩ <;> rw [h'] at h <;> cases h
    · exact .waits
    · exact acted_engTurn hturn hf

/-! ### Where a step stops -/

/-- A step answers a next state but where HOST takes a response before the first one or asserts reset. -/
theorem step_stops (s : State) :
    (∃ t, step s = .next t) ∨
    (step s = .fault .responseUnwritten ∧ s.hist.rsps = [] ∧ s.port.busy = false ∧
      ∃ rest, s.inp.hostIn = .takeResponse :: rest) ∨
    (step s = .refused .resetInsideRun ∧ ∃ rest, s.inp.hostIn = .reset :: rest) := by
  rw [step_eq]
  split
  · rcases runFetched_fetchHost (takeTurn s) with h | ⟨w, rest, -, h⟩ | ⟨rest, hin, hbusy, h⟩ | ⟨rest, hin, h⟩ <;> rw [h]
    · exact .inl ⟨_, rfl⟩
    · exact .inl ⟨_, rfl⟩
    · rcases takeResponse_eq (hostDone rest (takeTurn s)) with ⟨hrsps, h⟩ | ⟨-, h⟩
      · exact .inr (.inl ⟨h, by simpa using hrsps, by simpa using hbusy, rest, by simpa using hin⟩)
      · exact .inl ⟨_, h⟩
    · exact .inr (.inr ⟨rfl, rest, by simpa using hin⟩)
  · rcases runFetched_fetchSeq (takeTurn s) with ⟨-, h⟩ | ⟨-, -, h⟩ | ⟨i, -, h⟩ <;> exact .inl ⟨_, h⟩
  · next hturn => rcases runFetched_fetchEng hturn with h | ⟨can, f, -, h⟩ <;> exact .inl ⟨_, h⟩

/-- Settles O24: the meaning of every instruction is a next state, and `step_stops` has the two stops of a step. -/
theorem whereAStepStops : Obligations.WhereAStepStops := by
  unfold Obligations.WhereAStepStops
  refine ⟨fun i s => by cases i <;> exact ⟨_, rfl⟩, fun s f h => ?_, fun s r h => ?_⟩
  · rcases step_stops s with ⟨t, h'⟩ | ⟨-, hstop⟩ | ⟨h', -⟩
    · cases h'.symm.trans h
    · exact hstop
    · cases h'.symm.trans h
  · rcases step_stops s with ⟨t, h'⟩ | ⟨h', -⟩ | ⟨h', hstop⟩
    · cases h'.symm.trans h
    · cases h'.symm.trans h
    · cases h'.symm.trans h
      exact ⟨rfl, hstop⟩

/-- Settles O54: the turn of HOST comes to its next move. -/
theorem resetInsideRunRefused : Obligations.ResetInsideRunRefused := by
  unfold Obligations.ResetInsideRunRefused
  intro s rest as hsched hin
  rw [step_host hsched, fetchHost, takeTurn_hostIn, hin]
  rfl

/-- Settles O23: before the first response `rsps` is empty, and after it the response is read off the port. -/
theorem responseTaken : Obligations.ResponseTaken := by
  unfold Obligations.ResponseTaken
  intro s rest as hsched hin hbusy
  have htake : step s = takeResponse (hostDone rest (takeTurn s)) := by
    rw [step_host hsched, fetchHost, takeTurn_hostIn, hin]
    simp [takeTurn_port, hbusy, runFetched]
  rw [htake, takeTurn_cons hsched, takeResponse]
  constructor <;> intro hrsps <;> simp [hostDone, hrsps]

/-! ### When the block rests -/

theorem sameBlock_takeTurn (s : State) : Claims.sameBlock s (takeTurn s) := by
  simp [Claims.sameBlock]

theorem sameBlock_drawReady (s : State) : Claims.sameBlock s (drawReady s).2 := by
  simp [Claims.sameBlock]

theorem sameBlock_trans {s t u : State} (h : Claims.sameBlock s t) (h' : Claims.sameBlock t u) : Claims.sameBlock s u := by
  obtain ⟨heng, hseq, hport, hhist, hpar⟩ := h
  obtain ⟨heng', hseq', hport', hhist', hpar'⟩ := h'
  exact ⟨heng'.trans heng, hseq'.trans hseq, hport'.trans hport, hhist'.trans hhist, hpar'.trans hpar⟩

/-- Settles O33: without a command in execution SEQ has no step. -/
theorem sequencerIdleWhileNotBusy : Obligations.SequencerIdleWhileNotBusy := by
  unfold Obligations.SequencerIdleWhileNotBusy
  constructor
  · intro s as hsched hbusy
    refine ⟨takeTurn s, ?_, sameBlock_takeTurn s, by rw [takeTurn_cons hsched]⟩
    rw [step_seq hsched]
    simp [fetchSeq, hbusy, runFetched]
  · intro i s hcmd hbusy
    rw [exec_command hcmd, seqStep_not_busy hbusy]

/-- What the engine performs has been requested and is enabled: a stop, a start, or a byte operation on an open bus. -/
theorem performs_requested {u : State} {f : State → State} (hf : Performs u f) : u.eng.en = true ∧
    (u.eng.stopReq = true ∨ u.eng.stopReq = false ∧ (u.eng.pend = .start ∨ u.eng.pend ≠ .none ∧ u.eng.isOpen = true)) := by
  cases hf with
  | start h => simp_all [canStart]
  | stop h => simp_all [canStop]
  | tx h => simp_all [canTx]
  | rxAck h => simp_all [canRxAck]
  | rxNack h => simp_all [canRxNack]

/-- Settles O19: in each of the cases the engine has nothing it may perform. -/
theorem engineWaitsUntilEnabled : Obligations.EngineWaitsUntilEnabled := by
  unfold Obligations.EngineWaitsUntilEnabled
  intro s as hsched hwaits
  rw [← takeTurn_cons hsched] at hwaits
  have hturn : (takeTurn s).inp.turn = .eng := by rw [takeTurn_cons hsched]
  obtain ⟨t, h⟩ : ∃ t, step s = .next t := by
    rw [step_eq, hturn]
    rcases runFetched_fetchEng hturn with h | ⟨can, f, -, h⟩ <;> exact ⟨_, h⟩
  refine ⟨t, h, ?_⟩
  cases step_acted h with
  | waits => exact sameBlock_takeTurn s
  | asks => exact sameBlock_trans (sameBlock_takeTurn s) (sameBlock_drawReady _)
  | performs _ hready f hf =>
    have hrequest := performs_requested hf
    rw [takeTurn_eng] at hrequest
    rcases hwaits with hoff | ⟨hstop, hpend⟩ | ⟨hstop, hclosed, hpend⟩ | hnot <;> simp_all
  | accepts h' | takes h' | answers h' | runs h' => simp [hturn] at h'

/-- Settles O53: SEQ and ENG have no step in a quiescent state. -/
theorem quiescentRests : Obligations.QuiescentRests := by
  unfold Obligations.QuiescentRests
  intro s t hquiet h hhost
  simp only [quiescent, Bool.and_eq_true, Bool.not_eq_true', decide_eq_true_eq] at hquiet
  obtain ⟨⟨hbusy, hpend⟩, hstop⟩ := hquiet
  have hsame : Claims.sameBlock s t := by
    cases step_acted h with
    | waits => exact sameBlock_takeTurn s
    | asks => exact sameBlock_trans (sameBlock_takeTurn s) (sameBlock_drawReady _)
    | accepts hturn | takes hturn => exact absurd (by simpa using hturn) hhost
    | answers _ hbusy' => simp [hbusy] at hbusy'
    | runs _ i hrun => simpa [hbusy] using (running_busy hrun).1
    | performs _ _ f hf => simpa [hpend, hstop] using performs_requested hf
  obtain ⟨heng, -, hport, -, -⟩ := id hsame
  exact ⟨hsame, by simp [quiescent, heng, hport, hbusy, hpend, hstop]⟩

end Sys2Proof.Proofs
end

section
/-! Proofs about the bus engine (40_bus_engine.md R120 to R128, 30_encoding.md R93): what a request and an operation make of
the state, what an operation may append to the wire trace, and the shape that trace keeps (20_memory.md R67). -/

namespace Sys2Proof.Proofs

open Sys2Proof Sys2Proof.Machine

/-! ### An operation requested, and an operation performed -/

theorem engineOp_request {e : Bool} {op : CtlOp} {can : Engine → Bool} {f : State → State} {s : State}
    (hturn : s.inp.turn ≠ .eng) : engineOp e op can f s = ctlWrite e op s := if_neg hturn

theorem engineOp_perform {e : Bool} {op : CtlOp} {can : Engine → Bool} {f : State → State} {s : State}
    (hturn : s.inp.turn = .eng) (hcan : can s.eng = true) (hready : (drawReady s).1 = true) :
    engineOp e op can f s = f (drawReady s).2 := by
  simp [engineOp, hturn, engTurn, hcan, hready]

/-- The word of an operation is its ENSET bit and its code. -/
theorem ctrlWord_eq_append (e : Bool) (op : CtlOp) : ctrlWord e op = BitVec.ofBool e ++ (0#4 ++ op.code) := by
  cases e <;> cases op <;> rfl

/-- Settles O14: on a turn not the engine's an operation's word is a write of CTRL, and the write is one case of
`Engine.ctlWrite`. -/
theorem engineWordsRequest : Obligations.EngineWordsRequest := by
  unfold Obligations.EngineWordsRequest
  intro e s hturn
  have hword (op : CtlOp) : ctlWrite e op s = { s with
      eng := s.eng.ctlWrite e op
      hist := { s.hist with regs := s.hist.regs ++ [.ctrlWrite (BitVec.ofBool e ++ (0#4 ++ op.code))] } } := by
    rw [← ctrlWord_eq_append]
    rfl
  refine ⟨?_, ?_, ?_, ?_, ?_, ?_⟩
  · rw [exec, execEStart, engineOp_request hturn, hword]; rfl
  · rw [exec, execEStop, engineOp_request hturn, hword]; rfl
  · rw [exec, execETx, engineOp_request hturn, hword]; rfl
  · rw [exec, execERxAck, engineOp_request hturn, hword]; rfl
  · rw [exec, execERxNack, engineOp_request hturn, hword]; rfl
  · simp [exec, execCtlEnset, ctlWrite, traceReg, Engine.ctlWrite, ctrlWord, CtlOp.code]

/-- Settles O15: E_START is performed whole, and the draw before it takes Env's answer only. -/
theorem startPerformed : Obligations.StartPerformed := by
  unfold Obligations.StartPerformed
  intro e s hturn hen hstop hpend hready
  rw [exec, execEStart, engineOp_perform hturn (by simp [canStart, hen, hstop, hpend]) hready]
  cases hopen : s.eng.isOpen <;> simp [performStart, finish, emit, hopen, sdaAfter, sclAfter, RefSlave.observe]

/-- Settles O16: E_STOP emits P on an open bus and only drops the request on a closed one. -/
theorem stopPerformed : Obligations.StopPerformed := by
  unfold Obligations.StopPerformed
  intro e s hturn hen hstop hready
  rw [exec, execEStop, engineOp_perform hturn (by simp [canStop, hen, hstop]) hready]
  constructor <;> intro hopen <;> simp [performStop, emit, hopen, sdaAfter, sclAfter, RefSlave.observe]

/-- Settles O17: the acknowledgement is the one drawn after Env has answered ready. -/
theorem transmitPerformed : Obligations.TransmitPerformed := by
  unfold Obligations.TransmitPerformed
  intro e s hturn hen hstop hpend hopen hready
  refine ⟨_, performTx (drawReady s).2, rfl, ?_, ?_⟩
  · rw [exec, execETx, engineOp_perform hturn (by simp [canTx, hen, hstop, hpend, hopen]) hready]
  · simp [performTx, sdaAfter, sclAfter]

theorem performRx_drawReady (p : Policy) (s : State) :
    (performRx p (drawReady s).2).eng = { s.eng with
      data := (drawByte (drawReady s).2).1, pend := .none, done := true, sdaOut := policyLevel p, sclOut := false } ∧
    (performRx p (drawReady s).2).hist = { s.hist with wire := s.hist.wire ++ [.rx (drawByte (drawReady s).2).1 p] } ∧
    (performRx p (drawReady s).2).seq = s.seq ∧ (performRx p (drawReady s).2).port = s.port ∧
    (performRx p (drawReady s).2).par = s.par ∧
    (performRx p (drawReady s).2).inp = { (drawByte (drawReady s).2).2.inp with
      device := s.inp.device.map fun d => d.observe (.rx (drawByte (drawReady s).2).1 p) } := by
  simp [performRx, sdaAfter, sclAfter]

/-- Settles O18: the two receptions differ in the policy the master answers with. -/
theorem receptionPerformed : Obligations.ReceptionPerformed := by
  unfold Obligations.ReceptionPerformed
  intro e s hturn hen hstop hopen hready
  constructor
  · intro hpend
    refine ⟨_, performRx .ack (drawReady s).2, rfl, ?_, performRx_drawReady .ack s⟩
    rw [exec, execERxAck, engineOp_perform hturn (by simp [canRxAck, hen, hstop, hpend, hopen]) hready]
  · intro hpend
    refine ⟨_, performRx .nack (drawReady s).2, rfl, ?_, performRx_drawReady .nack s⟩
    rw [exec, execERxNack, engineOp_perform hturn (by simp [canRxNack, hen, hstop, hpend, hopen]) hready]

/-! ### What an operation appends to the wire trace -/

/-- An operation performed at `s` gives `t` and emits `w`: one event in its place, or none for a stop on a closed bus; of the
histories only the wire trace grows, and the request is used up. -/
structure Emits (w : List WireEvent) (s t : State) : Prop where
  hist : t.hist = { s.hist with wire := s.hist.wire ++ w }
  atMostOne : w.length ≤ 1
  inPlace : wireFrom s.eng.isOpen w = some t.eng.isOpen
  en : t.eng.en = s.eng.en
  par : t.par = s.par
  request : s.eng.stopReq = true ∧ t.eng.stopReq = false ∧ t.eng.pend = s.eng.pend ∨
    s.eng.stopReq = false ∧ s.eng.pend ≠ .none ∧ t.eng.pend = .none

theorem performs_emits {u s : State} {f : State → State} (hf : Performs u f) (heng : s.eng = u.eng) :
    ∃ w, Emits w s (f s) := by
  cases hf with
  | start h =>
    simp only [canStart, Bool.and_eq_true, Bool.not_eq_true', decide_eq_true_eq, ← heng] at h
    obtain ⟨⟨-, hstop⟩, hpend⟩ := h
    refine ⟨[if s.eng.isOpen then .sr else .s], ?_⟩
    cases hopen : s.eng.isOpen <;> constructor <;>
      simp [performStart, hopen, hstop, hpend, wireFrom, wireNext]
  | stop h =>
    simp only [canStop, Bool.and_eq_true, ← heng] at h
    obtain ⟨-, hstop⟩ := h
    refine ⟨if s.eng.isOpen then [.p] else [], ?_⟩
    cases hopen : s.eng.isOpen <;> constructor <;> simp [performStop, hopen, hstop, wireFrom, wireNext]
  | tx h =>
    simp only [canTx, Bool.and_eq_true, Bool.not_eq_true', decide_eq_true_eq, ← heng] at h
    obtain ⟨⟨⟨-, hstop⟩, hpend⟩, hopen⟩ := h
    refine ⟨[.tx s.eng.data (drawAck s.eng.data s).1], ?_⟩
    constructor <;> simp [performTx, hopen, hstop, hpend, wireFrom, wireNext]
  | rxAck h =>
    simp only [canRxAck, Bool.and_eq_true, Bool.not_eq_true', decide_eq_true_eq, ← heng] at h
    obtain ⟨⟨⟨-, hstop⟩, hpend⟩, hopen⟩ := h
    refine ⟨[.rx (drawByte s).1 .ack], ?_⟩
    constructor <;> simp [performRx, hopen, hstop, hpend, wireFrom, wireNext]
  | rxNack h =>
    simp only [canRxNack, Bool.and_eq_true, Bool.not_eq_true', decide_eq_true_eq, ← heng] at h
    obtain ⟨⟨⟨-, hstop⟩, hpend⟩, hopen⟩ := h
    refine ⟨[.rx (drawByte s).1 .nack], ?_⟩
    constructor <;> simp [performRx, hopen, hstop, hpend, wireFrom, wireNext]

/-- On an ENG turn an operation's word is a turn of the engine for that operation. -/
theorem exec_engineTurn {i : Instr} {s : State} (hrow : i.ctlPattern ≠ none) (hset : i ≠ .ctlEnset)
    (hturn : s.inp.turn = .eng) :
    ∃ can f, (can s.eng = true → Performs s f) ∧ exec i s = .next (engTurn can f s) := by
  have hop {e op can f} : engineOp e op can f s = engTurn can f s := if_pos hturn
  cases i with
  | eStart e => exact ⟨canStart, performStart, .start, congrArg _ hop⟩
  | eStop e => exact ⟨canStop, performStop, .stop, congrArg _ hop⟩
  | eTx e => exact ⟨canTx, performTx, .tx, congrArg _ hop⟩
  | eRxAck e => exact ⟨canRxAck, performRx .ack, .rxAck, congrArg _ hop⟩
  | eRxNack e => exact ⟨canRxNack, performRx .nack, .rxNack, congrArg _ hop⟩
  | ctlEnset => exact absurd rfl hset
  | enable | start | stop | write | rdAck | rdNack | wreg | rdw | probe => exact absurd rfl hrow

/-- Settles O20: an operation that is performed emits at most one event, and one that is not leaves the block. -/
theorem engineTouchesOnlyEngine : Obligations.EngineTouchesOnlyEngine := by
  unfold Obligations.EngineTouchesOnlyEngine
  intro i s t hrow hset hturn h
  obtain ⟨can, f, hf, hexec⟩ := exec_engineTurn hrow hset hturn
  cases hexec.symm.trans h
  have hkeeps : KeepsCommand s (engTurn can f s) := engTurn_keepsCommand hf
  refine ⟨hkeeps.seq, hkeeps.port, ?_⟩
  rcases engTurn_cases can f s with ⟨-, h'⟩ | ⟨-, -, h'⟩ | ⟨hcan, -, h'⟩ <;> rw [h']
  · exact ⟨rfl, ⟨[], by simp⟩, rfl⟩
  · exact ⟨drawReady_par s, ⟨[], by simp⟩, by rw [drawReady_eng]⟩
  · obtain ⟨w, hemits⟩ := performs_emits (hf hcan) (drawReady_eng s)
    exact ⟨by rw [hemits.par, drawReady_par], ⟨w, hemits.atMostOne, by rw [hemits.hist, drawReady_hist]⟩,
      by rw [hemits.en, drawReady_eng]⟩

/-! ### The shape of the wire trace (R67) -/

theorem wireFrom_append (o : Bool) (v w : List WireEvent) :
    wireFrom o (v ++ w) = (wireFrom o v).bind fun o' => wireFrom o' w := by
  induction v generalizing o with
  | nil => rfl
  | cons e es ih =>
    rw [List.cons_append, wireFrom, wireFrom]
    cases wireNext o e with
    | none => rfl
    | some o' => exact ih o'

theorem emits_wireShape {w : List WireEvent} {s t : State} (h : Emits w s t)
    (hshape : wireShape s.hist.wire = some s.eng.isOpen) : wireShape t.hist.wire = some t.eng.isOpen := by
  rw [h.hist, wireShape, wireFrom_append, ← wireShape, hshape]
  exact h.inPlace

/-- A step of SEQ touches neither the wire trace nor the engine's part of the bus, nor what stands outside. -/
theorem seqStep_bus (rows : List SeqRow) (d : Seqr → BitVec 16) {s : State} (hbusy : s.port.busy = true) :
    (seqStep rows d s).hist.wire = s.hist.wire ∧ (seqStep rows d s).hist.taken = s.hist.taken ∧
    (seqStep rows d s).inp = s.inp ∧ (seqStep rows d s).par = s.par ∧
    (seqStep rows d s).eng.isOpen = s.eng.isOpen ∧ (seqStep rows d s).eng.sdaOut = s.eng.sdaOut ∧
    (seqStep rows d s).eng.sclOut = s.eng.sclOut := by
  rcases seqStep_cases rows d s hbusy with ⟨row, -, -, h⟩ | ⟨-, -, h⟩ | ⟨-, h⟩ | ⟨-, h⟩ <;> rw [h]
  · simp [issue_frame]
  · simp [respond]
  · simp [poll]
  · simp [retire_hist]

/-- Settles O47: what the engine emits is an event in its place, after which the bus is open as OPEN says; no other step
touches the trace or OPEN. -/
theorem wireShapeKept : Obligations.WireShapeKept := by
  unfold Obligations.WireShapeKept
  intro s t hshape h
  rw [← takeTurn_hist s, ← takeTurn_eng s] at hshape
  cases step_acted h with
  | waits | accepts | takes | answers => exact hshape
  | runs _ i hrun =>
    obtain ⟨hwire, -, -, -, hopen, -⟩ := seqStep_bus (seqOf i) (dataOf i) (running_busy hrun).1
    rw [hwire, hopen, hshape]
  | asks => rw [drawReady_hist, drawReady_eng, hshape]
  | performs _ _ f hf =>
    obtain ⟨w, hemits⟩ := performs_emits hf (drawReady_eng _)
    exact emits_wireShape hemits (by rw [drawReady_hist, drawReady_eng, hshape])

/-- Settles O50: only an operation of the engine emits an event. -/
theorem onlyEngineMovesWire : Obligations.OnlyEngineMovesWire := by
  unfold Obligations.OnlyEngineMovesWire
  intro s t h hmoved
  rw [← takeTurn_hist s] at hmoved
  cases step_acted h with
  | waits | accepts | takes | answers => exact absurd rfl hmoved
  | runs _ i hrun => exact absurd (seqStep_bus (seqOf i) (dataOf i) (running_busy hrun).1).1 hmoved
  | asks => exact absurd (by rw [drawReady_hist]) hmoved
  | performs hturn _ f hf =>
    obtain ⟨w, hemits⟩ := performs_emits hf (drawReady_eng _)
    have hrequest := hemits.request
    have hen := (performs_requested hf).1
    rw [hemits.hist, drawReady_hist] at hmoved ⊢
    simp only [drawReady_eng, takeTurn_eng] at hrequest hen
    have hw : ∃ e, w = [e] := by
      match w, hemits.atMostOne with
      | [], _ => exact absurd (List.append_nil _) hmoved
      | [e], _ => exact ⟨e, rfl⟩
    obtain ⟨e, rfl⟩ := hw
    refine ⟨?_, hen, ⟨e, by rw [takeTurn_hist]⟩, hrequest⟩
    rw [(performs_keepsCommand hf _).turn, drawReady_turn, hturn]

end Sys2Proof.Proofs
end

section
/-! Proofs about every step (10_state.md R20, R29, R35, R36, R41, 20_memory.md R60, 40_bus_engine.md R127): what only grows,
what moves STEP and BUSY, and which steps reach the engine registers. -/

namespace Sys2Proof.Proofs

open Sys2Proof Sys2Proof.Machine

/-! ### The seven issue steps -/

/-- The issue steps of the primitives, each with the next state it answers. -/
inductive Issued (s : State) : PrimOp → State → Prop
  | enable : Issued s .enable (Claims.afterEnable s)
  | start : Issued s .start (Claims.afterStart s)
  | stop : Issued s .stop (Claims.afterStop s)
  | load (b : Byte) (hsub : s.seq.wsub = false) : Issued s (.write b) (Claims.afterLoad b s)
  | trigger (b : Byte) (hsub : s.seq.wsub = true) : Issued s (.write b) (Claims.afterTrigger s)
  | rdAck : Issued s .rdAck (Claims.afterRdAck s)
  | rdNack : Issued s .rdNack (Claims.afterRdNack s)

theorem issued_issue (op : PrimOp) (s : State) : Issued s op (issue op s) := by
  cases op with
  | write b =>
    cases hsub : s.seq.wsub
    · rw [issue_write_load b hsub]; exact .load b hsub
    · rw [issue_write_trigger b hsub]; exact .trigger b hsub
  | enable => rw [issue_enable]; exact .enable
  | start => rw [issue_start]; exact .start
  | stop => rw [issue_stop]; exact .stop
  | rdAck => rw [issue_rdAck]; exact .rdAck
  | rdNack => rw [issue_rdNack]; exact .rdNack

/-! ### The register trace -/

/-- The words issue steps write to CTRL (R145 to R150). -/
def issueWords : List Byte := [0x80#8, 0x01#8, 0x02#8, 0x03#8, 0x04#8, 0x05#8]

/-- An issue step is one write of a register. -/
theorem issued_regs {op : PrimOp} {s t : State} (h : Issued s op t) : ∃ x, t.hist.regs = s.hist.regs ++ [x] ∧
    ((∃ w ∈ issueWords, x = .ctrlWrite w) ∨ ∃ b, x = .dataWrite b) := by
  cases h with
  | load b => exact ⟨_, rfl, .inr ⟨b, rfl⟩⟩
  | enable | start | stop | trigger | rdAck | rdNack => exact ⟨_, rfl, .inl ⟨_, by decide, rfl⟩⟩

/-- A step of SEQ appends to the register trace, a write at an issue step only. -/
theorem seqStep_regs (rows : List SeqRow) (d : Seqr → BitVec 16) {s : State} (hbusy : s.port.busy = true) :
    ∃ xs, (seqStep rows d s).hist.regs = s.hist.regs ++ xs ∧
      (∀ w, RegAccess.ctrlWrite w ∈ xs → s.seq.phase = .idle ∧ w ∈ issueWords) ∧
      (∀ b, RegAccess.dataWrite b ∈ xs → s.seq.phase = .idle) := by
  rcases seqStep_cases rows d s hbusy with ⟨row, hphase, -, h⟩ | ⟨-, -, h⟩ | ⟨-, h⟩ | ⟨-, h⟩ <;> rw [h]
  · obtain ⟨x, hregs, hx⟩ := issued_regs (issued_issue row.op s)
    refine ⟨[x], hregs, ?_, fun _ _ => hphase⟩
    rintro w hw
    rcases hx with ⟨w', hw', rfl⟩ | ⟨b, rfl⟩ <;> simp at hw
    exact ⟨hphase, hw ▸ hw'⟩
  · exact ⟨[], by simp [respond], by simp, by simp⟩
  · exact ⟨[.statRead (Claims.statByte s)], by rw [poll_eq], by simp, by simp⟩
  · refine ⟨_, by rw [retire_hist, List.append_assoc], ?_, ?_⟩ <;> intro x hx <;> exfalso <;> revert hx <;>
      split_ifs <;> simp

/-- Settles O58: only a step of SEQ appends to the register trace. -/
theorem onlySequencerReachesRegisters : Obligations.OnlySequencerReachesRegisters := by
  unfold Obligations.OnlySequencerReachesRegisters
  intro s t h
  have hnone {xs : List RegAccess} (hregs : xs = s.hist.regs) : ∃ ys, xs = s.hist.regs ++ ys ∧
      (ys ≠ [] → t.inp.turn = .seq ∧ s.port.busy = true ∧ running s ≠ none) ∧
      (∀ w, RegAccess.ctrlWrite w ∈ ys → s.seq.phase = .idle ∧ w ∈ issueWords) ∧
      (∀ b, RegAccess.dataWrite b ∈ ys → s.seq.phase = .idle) := ⟨[], by simp [hregs]⟩
  cases step_acted h with
  | waits => exact ⟨fun _ => takeTurn_eng s, hnone (by rw [takeTurn_hist])⟩
  | accepts => exact ⟨fun _ => takeTurn_eng s, hnone (by simp)⟩
  | takes => exact ⟨fun _ => takeTurn_eng s, hnone (by simp)⟩
  | answers hturn => exact ⟨fun _ => takeTurn_eng s, hnone (by simp [respondIllegal])⟩
  | runs hturn i hrun =>
    have hbusy := (running_busy hrun).1
    obtain ⟨-, -, hinp, -⟩ := seqStep_bus (seqOf i) (dataOf i) hbusy
    obtain ⟨xs, hregs, hctrl, hdata⟩ := seqStep_regs (seqOf i) (dataOf i) hbusy
    rw [takeTurn_hist] at hregs
    rw [takeTurn_seq] at hctrl hdata
    rw [takeTurn_running] at hrun
    refine ⟨fun hhost => ?_, xs, hregs, fun _ => ⟨by rw [hinp, hturn], by simpa using hbusy, by simp [hrun]⟩, hctrl, hdata⟩
    rw [hinp, hturn] at hhost
    cases hhost
  | asks hturn => exact ⟨fun _ => by simp, hnone (by simp)⟩
  | performs hturn _ f hf =>
    obtain ⟨w, hemits⟩ := performs_emits hf (drawReady_eng _)
    refine ⟨fun hhost => ?_, hnone (by rw [hemits.hist]; simp)⟩
    rw [(performs_keepsCommand hf _).turn, drawReady_turn, hturn] at hhost
    cases hhost

/-- Settles O13: the decoder's first two tests name the reserved words, and the six words that issue steps write are
instructions. -/
theorem reservedControlWordRefused : Obligations.ReservedControlWordRefused := by
  unfold Obligations.ReservedControlWordRefused
  constructor
  · intro w
    constructor
    · intro hzero hcode
      rcases hcode with hcode | hcode <;> simp [decodeCtl, ctrlZeroOf, ctlCodeOf, hzero, hcode]
    · intro hzero
      rw [decodeCtl]
      exact if_pos hzero
  · intro s t h
    obtain ⟨-, xs, hregs, -, hctrl, -⟩ := onlySequencerReachesRegisters s t h
    have hwords : ∀ w ∈ issueWords, (decodeCtl w).toOption.isSome = true := by decide
    refine ⟨xs, hregs, fun w hw => ?_⟩
    have hsome := hwords w (hctrl w hw).2
    cases hd : decodeCtl w with
    | instr i => exact ⟨i, rfl⟩
    | bad e => rw [hd] at hsome; cases hsome

/-! ### What only grows (R20, R29, R41) -/

/-- EN is set for good, the parameters are constants, and every history grows at its end. -/
structure Grows (s t : State) : Prop where
  en : s.eng.en = true → t.eng.en = true
  par : t.par = s.par
  wire : s.hist.wire <+: t.hist.wire
  prims : s.hist.prims <+: t.hist.prims
  regs : s.hist.regs <+: t.hist.regs
  rsps : s.hist.rsps <+: t.hist.rsps
  taken : s.hist.taken <+: t.hist.taken

theorem grows_of_eq {s t : State} (heng : t.eng = s.eng) (hhist : t.hist = s.hist) (hpar : t.par = s.par) : Grows s t := by
  constructor <;> simp [heng, hhist, hpar]

theorem issued_grows {op : PrimOp} {s t : State} (h : Issued s op t) : Grows s t := by
  cases h with
  | enable => constructor <;> simp [Claims.afterEnable]
  | start => constructor <;> simp [Claims.afterStart]
  | stop => constructor <;> simp [Claims.afterStop]
  | load => constructor <;> simp [Claims.afterLoad]
  | trigger => constructor <;> simp [Claims.afterTrigger]
  | rdAck => constructor <;> simp [Claims.afterRdAck]
  | rdNack => constructor <;> simp [Claims.afterRdNack]

theorem seqStep_grows (rows : List SeqRow) (d : Seqr → BitVec 16) {s : State} (hbusy : s.port.busy = true) :
    Grows s (seqStep rows d s) := by
  rcases seqStep_cases rows d s hbusy with ⟨row, -, -, h⟩ | ⟨-, -, h⟩ | ⟨-, h⟩ | ⟨-, h⟩ <;> rw [h]
  · exact issued_grows (issued_issue row.op s)
  · constructor <;> simp [respond]
  · constructor <;> simp [poll_eq]
  · constructor <;> simp [retire_hist]

/-- Settles O49: by the kind of step, the engine's events and a response each going at the end of their history. -/
theorem neverUndone : Obligations.NeverUndone := by
  unfold Obligations.NeverUndone
  intro s t h
  have hgrows : Grows (takeTurn s) t := by
    cases step_acted h with
    | waits => exact grows_of_eq rfl rfl rfl
    | accepts => exact grows_of_eq rfl rfl rfl
    | takes => constructor <;> simp
    | answers => constructor <;> simp [respondIllegal]
    | runs _ i hrun => exact seqStep_grows _ _ (running_busy hrun).1
    | asks => exact grows_of_eq (drawReady_eng _) (drawReady_hist _) (drawReady_par _)
    | performs _ _ f hf =>
      obtain ⟨w, hemits⟩ := performs_emits hf (drawReady_eng _)
      constructor <;> simp [hemits.en, hemits.par, hemits.hist]
  obtain ⟨hen, hpar, hwire, hprims, hregs, hrsps, htaken⟩ := hgrows
  rw [takeTurn_hist] at hwire hprims hregs hrsps htaken
  rw [takeTurn_eng] at hen
  exact ⟨hen, hpar.trans (takeTurn_par s), hwire, hprims, hregs, hrsps, htaken⟩

/-! ### STEP and BUSY (R35, R36) -/

theorem issued_stepIdx {op : PrimOp} {s t : State} (h : Issued s op t) : t.seq.stepIdx = s.seq.stepIdx := by
  cases h <;> rfl

theorem issued_port {op : PrimOp} {s t : State} (h : Issued s op t) : t.port = s.port := by
  cases h <;> rfl

theorem retire_stepIdx (row : SeqRow) (s : State) : (retire row s).seq.stepIdx = s.seq.stepIdx + 1 := by
  rw [retire_seq]
  simp [Seqr.advance, latchIf_frame, reportIf_frame]

theorem poll_stepIdx (s : State) : (poll s).seq.stepIdx = s.seq.stepIdx := by
  rw [poll_seq, Seqr.poll]
  split_ifs <;> rfl

/-- A step of SEQ goes on with the command, at its STEP or from an ended primitive at the next one, or it responds. -/
theorem seqStep_progress (rows : List SeqRow) (d : Seqr → BitVec 16) {s : State} (hbusy : s.port.busy = true) :
    (seqStep rows d s).seq.stepIdx = s.seq.stepIdx ∧ (seqStep rows d s).port = s.port ∧
      (seqStep rows d s).hist.rsps = s.hist.rsps ∨
    (seqStep rows d s).seq.stepIdx = s.seq.stepIdx + 1 ∧ (s.seq.phase = .completed ∨ s.seq.phase = .timedOut) ∧
      (seqStep rows d s).seq.phase = .idle ∧ (seqStep rows d s).port = s.port ∧
      (seqStep rows d s).hist.rsps = s.hist.rsps ∨
    ∃ w, seqStep rows d s = deliver w s := by
  rcases seqStep_cases rows d s hbusy with ⟨row, -, -, h⟩ | ⟨-, -, h⟩ | ⟨-, h⟩ | ⟨hphase, h⟩ <;> rw [h]
  · exact .inl ⟨issued_stepIdx (issued_issue row.op s), issued_port (issued_issue row.op s), by simp [issue_frame]⟩
  · exact .inr (.inr ⟨_, rfl⟩)
  · exact .inl ⟨poll_stepIdx s, rfl, by rw [poll_eq]⟩
  · exact .inr (.inl ⟨retire_stepIdx _ s, hphase, rfl, retire_port _ s, by rw [retire_hist]⟩)

/-- While `BUSY = 1` a step leaves the command, answers an illegal word, or is a step of the command's cycle. -/
theorem step_busy {s t : State} (hbusy : s.port.busy = true) (h : step s = .next t) :
    KeepsCommand (takeTurn s) t ∨ (running s = none ∧ t = respondIllegal (takeTurn s)) ∨
    ∃ i, running s = some i ∧ t = seqStep (seqOf i) (dataOf i) (takeTurn s) := by
  cases step_acted h with
  | waits => exact .inl (.refl _)
  | accepts _ _ _ hidle | takes _ _ hidle => simp [hbusy] at hidle
  | answers _ _ hrun => exact .inr (.inl ⟨(takeTurn_running s).symm.trans hrun, rfl⟩)
  | runs _ i hrun => exact .inr (.inr ⟨i, (takeTurn_running s).symm.trans hrun, rfl⟩)
  | asks => exact .inl (drawReady_keepsCommand _)
  | performs _ _ f hf => exact .inl ((drawReady_keepsCommand _).trans (performs_keepsCommand hf _))

/-- Settles O51: a step leaves the command in execution, goes on with it, or responds. -/
theorem stepAdvancesByOne : Obligations.StepAdvancesByOne := by
  unfold Obligations.StepAdvancesByOne
  intro s t hbusy h
  have hbusy' : (takeTurn s).port.busy = true := by simpa using hbusy
  have hprogress : (t.seq.stepIdx = s.seq.stepIdx ∧ t.port = s.port ∧ t.hist.rsps = s.hist.rsps) ∨
      (t.seq.stepIdx = s.seq.stepIdx + 1 ∧ (s.seq.phase = .completed ∨ s.seq.phase = .timedOut) ∧
        t.seq.phase = .idle ∧ t.port = s.port ∧ t.hist.rsps = s.hist.rsps) ∨
      ∃ w, t = deliver w (takeTurn s) := by
    rcases step_busy hbusy h with hkeeps | ⟨-, rfl⟩ | ⟨i, -, rfl⟩
    · exact .inl (by simp [hkeeps.seq, hkeeps.port, hkeeps.rsps])
    · exact .inr (.inr ⟨_, rfl⟩)
    · simpa using seqStep_progress (seqOf i) (dataOf i) hbusy'
  rcases hprogress with ⟨hstep, hport, hrsps⟩ | ⟨hstep, hphase, hidle, hport, hrsps⟩ | ⟨w, rfl⟩
  · exact ⟨.inl hstep, by simp [hport, hbusy], fun _ => ⟨hport, hrsps⟩⟩
  · exact ⟨.inr ⟨hstep, hphase, hidle⟩, by simp [hport, hbusy], fun _ => ⟨hport, hrsps⟩⟩
  · simp

/-- Settles O52: a poll and a retire step read the engine and do not write it, and the end of a sequence responds. -/
theorem timeoutWithdrawsNothing : Obligations.TimeoutWithdrawsNothing := by
  unfold Obligations.TimeoutWithdrawsNothing
  intro i s t hcmd hnot h
  cases hbusy : s.port.busy with
  | false =>
    rw [exec_command hcmd, seqStep_not_busy hbusy] at h
    cases h; rfl
  | true =>
    cases hphase : s.seq.phase with
    | idle =>
      have hend : s.seq.stepIdx.toNat = Claims.lengthOf i := hnot.resolve_left (by simp [hphase])
      rw [exec_respond hcmd hbusy hphase hend] at h
      cases h; rfl
    | issued =>
      rw [Waits.exec_eq ⟨hcmd, hbusy, hphase⟩] at h
      cases h; rfl
    | completed =>
      rw [exec_retire hcmd hbusy (.inl hphase)] at h
      cases h; exact retire_eng _ s
    | timedOut =>
      rw [exec_retire hcmd hbusy (.inr hphase)] at h
      cases h; exact retire_eng _ s

/-! ### After reset (R40) -/

/-- Settles O44: the values are read off `State.reset`, and the budgets are one more than what stands for them. -/
theorem resetState : Obligations.ResetState := by
  unfold Obligations.ResetState
  exact ⟨rfl, rfl, rfl, rfl, rfl, rfl, rfl, rfl, rfl, rfl, rfl, rfl, rfl, rfl, budgetStart_ne_zero, budgetWrite_ne_zero⟩

/-! ### A word that is no command (R102) -/

theorem steps_succ {n : Nat} {s u : State} : Steps (n + 1) s u ↔ ∃ t, step s = .next t ∧ Steps n t u := by
  have hstep : Sys2Proof.core.step s = step s := rfl
  cases h : step s <;> simp [Steps, Host.Core.run, hstep, h]

theorem steps_cons {n : Nat} {s t u : State} (h : step s = .next t) (h' : Steps n t u) : Steps (n + 1) s u :=
  steps_succ.mpr ⟨t, h, h'⟩

theorem legalCmd_iff_row (w : CmdWord) :
    legalCmd w = true ↔ ∃ (i : Instr) (m k : CmdWord), i.cmdPattern = some (m, k) ∧ w &&& k = m := by
  constructor
  · intro hlegal
    cases hd : decodeCmd w with
    | instr i =>
      obtain ⟨⟨m, k⟩, hrow⟩ := Option.isSome_iff_exists.mp (isCommand_of_decodeCmd hd)
      exact ⟨i, m, k, hrow, and_eq_of_encode hrow (decodeCmd_eq_instr_iff.mp hd)⟩
    | bad e =>
      rw [legalCmd, hd] at hlegal
      cases hlegal
  · rintro ⟨i, m, k, hrow, hmatch⟩
    obtain ⟨j, hj, -⟩ := exists_decodeCmd_of_and_eq hrow hmatch
    rw [legalCmd, hj]
    rfl

theorem legalCmd_eq_false_of_reserved {w : CmdWord}
    (h : opcOf w ∈ [0x0#4, 0x7#4, 0xB#4, 0xC#4, 0xD#4, 0xE#4, 0xF#4]) : legalCmd w = false := by
  cases hd : decodeCmd w with
  | instr i => exact absurd h (not_reserved_of_decodeCmd hd)
  | bad e =>
    rw [legalCmd, hd]
    rfl

/-- An illegal word presented while `BUSY = 0` is accepted, and answered by the next step of SEQ from slots that are all
NOT_RUN. -/
theorem steps_illegal {w : CmdWord} {s : State} {rest : List HostMove} {as : List Agent} (hlegal : legalCmd w = false)
    (hbusy : s.port.busy = false) (hin : s.inp.hostIn = .command w :: rest) (hsched : s.inp.sched = .host :: .seq :: as) :
    Steps 2 s (deliver 0x83FF0000#32 (takeTurn (accept w (hostDone rest (takeTurn s))))) := by
  have haccept : step s = .next (accept w (hostDone rest (takeTurn s))) := by
    rw [step_host hsched, fetchHost_command (by simpa using hin) (by simpa using hbusy)]
    rfl
  have hsched' : (accept w (hostDone rest (takeTurn s))).inp.sched = .seq :: as := by
    rw [takeTurn_cons hsched]
    rfl
  refine steps_cons haccept (steps_cons ?_ rfl)
  rw [step_seq hsched', fetchSeq_illegal (by simp) (by simpa using hlegal), respondIllegal, rspWord_eq_response]
  simp only [takeTurn_seq, accept_o0, accept_o1, accept_o2, accept_o3, accept_o4]
  rfl

/-- Settles O6: what is legal is read off the rows, and the two steps write the port, the response and the latches. -/
theorem illegalWordAnswered : Obligations.IllegalWordAnswered := by
  unfold Obligations.IllegalWordAnswered
  refine ⟨legalCmd_iff_row, fun w => legalCmd_eq_false_of_reserved, ?_⟩
  intro w s rest as hlegal hbusy hin hsched
  exact ⟨_, steps_illegal hlegal hbusy hin hsched, by simp⟩

end Sys2Proof.Proofs
end

section
/-! Proofs about the invariant (10_state.md R25, R30, R32, R33, R35, R37, 20_memory.md R67, 41_transport_primitives.md R142):
each kind of step keeps it. -/

namespace Sys2Proof.Proofs

open Sys2Proof Sys2Proof.Machine

/-! ### Steps that leave the block, and the host's -/

theorem running_congr {s t : State} (hseq : t.seq = s.seq) (hport : t.port = s.port) : running t = running s := by
  rw [running, running, hseq, hport]

/-- The invariant speaks of these parts of the state only. -/
theorem inv_congr {s t : State} (h : Inv s) (heng : t.eng = s.eng) (hseq : t.seq = s.seq) (hport : t.port = s.port)
    (hwire : t.hist.wire = s.hist.wire) (hrsps : t.hist.rsps = s.hist.rsps) (hdevice : t.inp.device = s.inp.device)
    (hpar : t.par = s.par) : Inv t := by
  have hrun := running_congr hseq hport
  obtain ⟨budgets, done, wire, lines, phaseBusy, wsub, illegal, sequence, awaits, counter, timedOut, response, device⟩ := h
  constructor <;> simpa only [heng, hseq, hport, hwire, hrsps, hdevice, hpar, hrun]

theorem takeTurn_inv {s : State} (h : Inv s) : Inv (takeTurn s) := by
  apply inv_congr h <;> simp

theorem drawReady_inv {s : State} (h : Inv s) : Inv (drawReady s).2 := by
  apply inv_congr h <;> simp

/-- The latches of an accepted legal word hold that word. -/
theorem running_accept {w : CmdWord} {i : Instr} (s : State) (h : decodeCmd w = .instr i) :
    running (accept w s) = some i := by
  have hlegal : legalCmd w = true := by rw [legalCmd, h]; rfl
  have hword : latchedWord (accept w s).seq = w := cmdWord_of_fields w (zeroOf_of_legal hlegal)
  simp [running, hlegal, hword, h, Decoded.toOption]

theorem accept_inv {s : State} (w : CmdWord) (h : Inv s) : Inv (accept w s) where
  budgets := h.budgets
  doneMeansPerformed := h.doneMeansPerformed
  wire := h.wire
  lines := h.lines
  phaseBusy := fun hphase => absurd rfl hphase
  wsub := fun hsub => nomatch hsub
  illegal := fun _ _ => ⟨rfl, rfl, rfl, rfl, rfl⟩
  sequence := by
    intro _ hlegal
    cases hd : decodeCmd w with
    | instr i => exact ⟨i, running_accept s hd, Nat.zero_le _, by simp⟩
    | bad e => simp [legalCmd, hd, Decoded.toOption] at hlegal
  awaits := fun hphase => nomatch hphase
  counter := fun hphase => nomatch hphase
  timedOut := fun hphase => nomatch hphase
  response := h.response
  device := h.device

/-! ### Responses -/

theorem deliver_inv {s : State} (w : RspWord) (h : Inv s) (hphase : s.seq.phase = .idle) (hsub : s.seq.wsub = false) :
    Inv (deliver w s) where
  budgets := h.budgets
  doneMeansPerformed := h.doneMeansPerformed
  wire := h.wire
  lines := h.lines
  phaseBusy := fun hne => absurd hphase hne
  wsub := by simp [hsub]
  illegal := fun hbusy => nomatch hbusy
  sequence := fun hbusy => nomatch hbusy
  awaits := by simp [hphase]
  counter := by simp [hphase]
  timedOut := by simp [hphase]
  response := by simp
  device := h.device

/-- A word that is no command executes nothing, so nothing is in progress when it is answered. -/
theorem respondIllegal_inv {s : State} (h : Inv s) (hbusy : s.port.busy = true) (hrun : running s = none) :
    Inv (respondIllegal s) := by
  have hillegal : s.seq.legal ≠ true := by
    intro hlegal
    obtain ⟨i, hi, -⟩ := h.sequence hbusy hlegal
    simp [hrun] at hi
  refine deliver_inv _ h ?_ ?_
  · by_contra hphase
    exact hillegal (h.phaseBusy hphase).2
  · by_contra hsub
    exact hillegal (h.wsub (by simpa using hsub)).2.1

/-- The invariant's row: the primitive in progress is the sequence's at STEP. -/
theorem exists_row_of_inv {s : State} {i : Instr} (h : Inv s) (hrun : running s = some i)
    (hactive : s.seq.phase ≠ .idle ∨ s.seq.wsub = true) :
    ∃ row, rowAt (seqOf i) s.seq.stepIdx = some row ∧ row.op.prim = s.seq.prim := by
  obtain ⟨hbusy, hlegal, -⟩ := running_busy hrun
  obtain ⟨j, hj, -, hrow⟩ := h.sequence hbusy hlegal
  cases hj.symm.trans hrun
  exact hrow hactive

theorem respond_inv {s : State} {i : Instr} (d : Seqr → BitVec 16) (h : Inv s) (hrun : running s = some i)
    (hphase : s.seq.phase = .idle) (hend : rowAt (seqOf i) s.seq.stepIdx = none) : Inv (respond d s) := by
  refine deliver_inv _ h hphase ?_
  by_contra hsub
  obtain ⟨row, hrow, -⟩ := exists_row_of_inv h hrun (.inr (by simpa using hsub))
  simp [hend] at hrow

/-! ### Issue steps -/

theorem issued_done {op : PrimOp} {s t : State} (hissued : Issued s op t) (h : s.eng.done = true → s.eng.pend = .none)
    (hdone : t.eng.done = true) : t.eng.pend = .none := by
  cases hissued with
  | enable | load => exact h hdone
  | start | stop | trigger | rdAck | rdNack => cases hdone

/-- What is in execution after an issue step is the primitive issued, which WRITE's second issue step has found there. -/
theorem issued_prim {op : PrimOp} {s t : State} (hissued : Issued s op t) (h : s.seq.wsub = true → s.seq.prim = .write) :
    t.seq.prim = op.prim := by
  cases hissued with
  | trigger b hsub => exact h hsub
  | enable | start | stop | load | rdAck | rdNack => rfl

theorem issued_wsub {op : PrimOp} {s t : State} (hissued : Issued s op t)
    (h : s.seq.wsub = true → s.seq.phase = .idle ∧ op.prim = .write) (hphase : s.seq.phase = .idle)
    (hsub : t.seq.wsub = true) : t.seq.phase = .idle ∧ op.prim = .write := by
  cases hissued with
  | load => exact ⟨hphase, rfl⟩
  | trigger => cases hsub
  | enable | start | stop | rdAck | rdNack => cases (h hsub).2

theorem issued_awaits {op : PrimOp} {s t : State} (hissued : Issued s op t) (hprim : t.seq.prim = op.prim)
    (hphase : s.seq.phase = .idle) (hwait : t.seq.phase = .issued) :
    t.eng.pend = t.seq.prim.request ∧ t.seq.prim.request ≠ .none := by
  rw [hprim]
  cases hissued with
  | start | trigger | rdAck | rdNack => exact ⟨rfl, nofun⟩
  | load => cases hphase.symm.trans hwait
  | enable | stop => cases hwait

theorem issued_counter {op : PrimOp} {s t : State} (hissued : Issued s op t) (hprim : t.seq.prim = op.prim)
    (hphase : s.seq.phase = .idle) (hwait : t.seq.phase = .issued) (hguarded : t.seq.prim.guarded = true) :
    t.seq.cnt = if t.seq.prim = .start then s.par.budgetStart else s.par.budgetWrite := by
  rw [hprim] at *
  cases hissued with
  | start | trigger => rfl
  | load => cases hphase.symm.trans hwait
  | enable | stop => cases hwait
  | rdAck | rdNack => cases hguarded

theorem issued_timedOut {op : PrimOp} {s t : State} (hissued : Issued s op t) (hphase : s.seq.phase = .idle) :
    t.seq.phase ≠ .timedOut := by
  cases hissued with
  | load => exact fun h => nomatch hphase.symm.trans h
  | enable | start | stop | trigger | rdAck | rdNack => exact fun h => nomatch h

theorem running_of_operands {s t : State} (hport : t.port = s.port) (hops : operandsOf t.seq = operandsOf s.seq) :
    running t = running s := by
  simp only [operandsOf, Prod.mk.injEq] at hops
  obtain ⟨hopc, haddr, hreg, hval, hlegal⟩ := hops
  simp only [running, latchedWord, hport, hopc, haddr, hreg, hval, hlegal]

theorem issue_inv {s : State} {i : Instr} {row : SeqRow} (h : Inv s) (hrun : running s = some i)
    (hphase : s.seq.phase = .idle) (hrow : rowAt (seqOf i) s.seq.stepIdx = some row) : Inv (issue row.op s) := by
  obtain ⟨hbusy, hlegal, -⟩ := running_busy hrun
  obtain ⟨hport, hinp, hpar, hwire, hrsps, -, hopen, -, hsda, hscl⟩ := issue_frame row.op s
  have hissued := issued_issue row.op s
  have hops := issue_operands row.op s
  have hrun' := (running_of_operands hport hops).trans hrun
  have hlegal' : (issue row.op s).seq.legal = true := (running_busy hrun').2.1
  have hstep := issued_stepIdx hissued
  have hprim := issued_prim hissued fun hsub => (h.wsub hsub).2.2.2
  have hwrite : s.seq.wsub = true → s.seq.phase = .idle ∧ row.op.prim = .write := by
    intro hsub
    obtain ⟨row', hrow', hprim'⟩ := exists_row_of_inv h hrun (.inr hsub)
    cases hrow'.symm.trans hrow
    exact ⟨hphase, hprim'.trans (h.wsub hsub).2.2.2⟩
  refine ⟨by rw [hpar]; exact h.budgets, issued_done hissued h.doneMeansPerformed, by rw [hwire, hopen]; exact h.wire,
    by rw [hopen, hsda, hscl]; exact h.lines, fun _ => ⟨by rw [hport, hbusy], hlegal'⟩, ?wsub, ?illegal, ?sequence,
    fun hwait _ => issued_awaits hissued hprim hphase hwait, ?counter,
    fun hout => absurd hout (issued_timedOut hissued hphase), by rw [hrsps, hport]; exact h.response,
    by rw [hinp]; exact h.device⟩
  case wsub =>
    intro hsub
    obtain ⟨hidle, hopPrim⟩ := issued_wsub hissued hwrite hphase hsub
    exact ⟨by rw [hport, hbusy], hlegal', hidle, hprim.trans hopPrim⟩
  case illegal => simp [hlegal']
  case sequence =>
    refine fun _ _ => ⟨i, hrun', ?_, fun _ => ⟨row, by rw [hstep, hrow], hprim.symm⟩⟩
    obtain ⟨hlt, -⟩ := List.getElem?_eq_some_iff.mp hrow
    rw [hstep]
    exact hlt.le
  case counter =>
    intro hwait hguarded
    rw [issued_counter hissued hprim hphase hwait hguarded, hpar]
    split_ifs
    · exact ⟨h.budgets.1, BitVec.le_refl _⟩
    · exact ⟨h.budgets.2, BitVec.le_refl _⟩

/-! ### Polls -/

theorem poll_frame (q : Seqr) (done : Bool) : (q.poll done).prim = q.prim ∧ (q.poll done).wsub = q.wsub ∧
    (q.poll done).stepIdx = q.stepIdx := by
  rw [Seqr.poll]
  split_ifs <;> exact ⟨rfl, rfl, rfl⟩

theorem poll_phase_ne_idle {q : Seqr} (done : Bool) (hphase : q.phase = .issued) : (q.poll done).phase ≠ .idle := by
  simp only [Seqr.poll, Seqr.countDown]
  split_ifs <;> simp [hphase]

/-- A wait goes on after a poll that has not seen DONE, with polls left if it is guarded. -/
theorem poll_issued {q : Seqr} {done : Bool} (h : (q.poll done).phase = .issued) :
    done = false ∧ (q.prim.guarded = true → q.cnt - 1 ≠ 0 ∧ (q.poll done).cnt = q.cnt - 1) := by
  cases done with
  | true => cases h
  | false =>
    refine ⟨rfl, fun hguarded => ?_⟩
    have hpoll : q.poll false = q.countDown := by simp [Seqr.poll, hguarded]
    rw [hpoll] at h ⊢
    refine ⟨fun hzero => ?_, rfl⟩
    rw [Seqr.countDown, if_pos hzero] at h
    cases h

theorem poll_timedOut {q : Seqr} {done : Bool} (hphase : q.phase = .issued) (h : (q.poll done).phase = .timedOut) :
    q.prim.guarded = true := by
  by_contra hguarded
  cases done <;> simp [Seqr.poll, hguarded, hphase] at h

theorem sub_one_le_of_le {c b : BitVec 16} (hc : c ≠ 0) (h : c ≤ b) : c - 1 ≤ b := by
  bv_omega

theorem poll_inv {s : State} {i : Instr} (h : Inv s) (hrun : running s = some i) (hphase : s.seq.phase = .issued) :
    Inv (poll s) := by
  obtain ⟨hbusy, -, -⟩ := running_busy hrun
  obtain ⟨hprim, hsub, hstep⟩ := poll_frame s.seq s.eng.done
  have hrun' : running (poll s) = some i := (running_of_operands (poll_port s) (poll_operands s)).trans hrun
  have hlegal' : (poll s).seq.legal = true := (running_busy hrun').2.1
  rw [← poll_seq] at hprim hsub hstep
  refine ⟨h.budgets, h.doneMeansPerformed, h.wire, h.lines, fun _ => ⟨hbusy, hlegal'⟩, ?wsub, ?illegal, ?sequence,
    ?awaits, ?counter, ?timedOut, h.response, h.device⟩
  case wsub =>
    intro hsub'
    cases (h.wsub (hsub.symm.trans hsub')).2.2.1.symm.trans hphase
  case illegal => simp [hlegal']
  case sequence =>
    obtain ⟨row, hrow, hrowPrim⟩ := exists_row_of_inv h hrun (.inl (by simp [hphase]))
    refine fun _ _ => ⟨i, hrun', ?_, fun _ => ⟨row, by rw [hstep, hrow], hrowPrim.trans hprim.symm⟩⟩
    obtain ⟨hlt, -⟩ := List.getElem?_eq_some_iff.mp hrow
    rw [hstep]
    exact hlt.le
  case awaits =>
    intro _ hdone
    rw [hprim]
    exact h.awaits hphase hdone
  case counter =>
    intro hwait hguarded
    rw [poll_seq] at hwait
    rw [hprim] at hguarded ⊢
    obtain ⟨-, hcount⟩ := poll_issued hwait
    obtain ⟨hleft, hcnt⟩ := hcount hguarded
    obtain ⟨hcnt0, hle⟩ := h.counter hphase hguarded
    rw [poll_seq, hcnt]
    exact ⟨hleft, sub_one_le_of_le hcnt0 hle⟩
  case timedOut =>
    intro hout
    rw [poll_seq] at hout
    rw [hprim]
    exact poll_timedOut hphase hout

/-! ### Retire steps -/

theorem lengthOf_le (i : Instr) : Claims.lengthOf i ≤ 8 := by cases i <;> simp [Claims.lengthOf]

/-- STEP has room to advance past the last row. -/
theorem toNat_stepIdx_succ {i : Instr} {k : BitVec 4} (h : k.toNat < Claims.lengthOf i) :
    (k + 1).toNat = k.toNat + 1 := by
  have hle := lengthOf_le i
  bv_omega

theorem lt_lengthOf_of_rowAt {i : Instr} {k : BitVec 4} {row : SeqRow} (h : rowAt (seqOf i) k = some row) :
    k.toNat < Claims.lengthOf i := by
  obtain ⟨hlt, -⟩ := List.getElem?_eq_some_iff.mp h
  rwa [length_seqOf] at hlt

theorem retire_wsub (row : SeqRow) (s : State) : (retire row s).seq.wsub = s.seq.wsub := by
  rw [retire_seq]
  simp [Seqr.advance, latchIf_frame, reportIf_frame]

theorem retire_inv {s : State} {i : Instr} {row : SeqRow} (h : Inv s) (hrun : running s = some i)
    (hphase : s.seq.phase ≠ .idle) : Inv (retire row s) := by
  have hidle : (retire row s).seq.phase = .idle := rfl
  have hsub : s.seq.wsub = false := by
    by_contra hsub
    exact hphase (h.wsub (by simpa using hsub)).2.2.1
  have hrun' := (running_of_operands (retire_port row s) (retire_operands row s)).trans hrun
  have hlegal' : (retire row s).seq.legal = true := (running_busy hrun').2.1
  refine ⟨by simpa using h.budgets, by simpa using h.doneMeansPerformed, by simpa [retire_hist] using h.wire,
    by simpa using h.lines, by simp [hidle], by simp [retire_wsub, hsub], by simp [hlegal'], ?sequence, by simp [hidle],
    by simp [hidle], by simp [hidle], by simpa [retire_hist] using h.response, by simpa using h.device⟩
  case sequence =>
    obtain ⟨row', hrow', -⟩ := exists_row_of_inv h hrun (.inl hphase)
    have hlt := lt_lengthOf_of_rowAt hrow'
    refine fun _ _ => ⟨i, hrun', ?_, by simp [hidle, retire_wsub, hsub]⟩
    rw [retire_stepIdx, toNat_stepIdx_succ hlt, length_seqOf]
    exact hlt

theorem phase_ne_idle_of_ended {p : Phase} (h : p = .completed ∨ p = .timedOut) : p ≠ .idle := by
  rcases h with rfl | rfl <;> exact nofun

theorem seqStep_inv {s : State} {i : Instr} (h : Inv s) (hrun : running s = some i) :
    Inv (seqStep (seqOf i) (dataOf i) s) := by
  rcases seqStep_cases (seqOf i) (dataOf i) s (running_busy hrun).1 with
    ⟨row, hphase, hrow, h'⟩ | ⟨hphase, hrow, h'⟩ | ⟨hphase, h'⟩ | ⟨hphase, h'⟩ <;> rw [h']
  · exact issue_inv h hrun hphase hrow
  · exact respond_inv _ h hrun hphase hrow
  · exact poll_inv h hrun hphase
  · exact retire_inv h hrun (phase_ne_idle_of_ended hphase)

/-! ### Operations of the engine -/

/-- An operation leaves DONE and PEND alone, if it is a stop, or completes what was pending. -/
theorem performs_done {u : State} {f : State → State} (hf : Performs u f) (s : State) :
    ((f s).eng.done = s.eng.done ∧ (f s).eng.pend = s.eng.pend) ∨ ((f s).eng.done = true ∧ (f s).eng.pend = .none) := by
  cases hf with
  | start => exact .inr ⟨rfl, rfl⟩
  | stop => left; cases hopen : s.eng.isOpen <;> simp [performStop, hopen]
  | tx => exact .inr ⟨rfl, rfl⟩
  | rxAck | rxNack => exact .inr ⟨rfl, rfl⟩

/-- After an operation the lines stand as OPEN says, if they did before (R69, log 8). -/
theorem performs_lines {u s : State} {f : State → State} (hf : Performs u f) (heng : s.eng = u.eng)
    (h : (s.eng.isOpen = false → s.eng.sdaOut = true ∧ s.eng.sclOut = true) ∧ (s.eng.isOpen = true → s.eng.sclOut = false)) :
    ((f s).eng.isOpen = false → (f s).eng.sdaOut = true ∧ (f s).eng.sclOut = true) ∧
      ((f s).eng.isOpen = true → (f s).eng.sclOut = false) := by
  cases hf with
  | start => simp [performStart_eng]
  | stop =>
    cases hopen : s.eng.isOpen
    · rw [performStop_closed hopen]
      simpa [hopen] using h
    · simp [(performStop_open hopen).1]
  | tx hcan =>
    simp only [canTx, Bool.and_eq_true, ← heng] at hcan
    simp [performTx_eng, hcan.2]
  | rxAck hcan =>
    simp only [canRxAck, Bool.and_eq_true, ← heng] at hcan
    simp [performRx_eng, hcan.2]
  | rxNack hcan =>
    simp only [canRxNack, Bool.and_eq_true, ← heng] at hcan
    simp [performRx_eng, hcan.2]

/-- An operation shows the reference device one event, if any. -/
theorem performs_device {u : State} {f : State → State} (hf : Performs u f) (s : State) :
    (f s).inp.device = s.inp.device ∨ ∃ e, (f s).inp.device = s.inp.device.map fun d => d.observe e := by
  cases hf with
  | start => exact .inr ⟨_, rfl⟩
  | stop =>
    cases hopen : s.eng.isOpen
    · exact .inl (by rw [performStop_closed hopen])
    · exact .inr ⟨.p, by simp [performStop, hopen]⟩
  | tx => exact .inr ⟨.tx s.eng.data (drawAck s.eng.data s).1, by simp [performTx]⟩
  | rxAck => exact .inr ⟨.rx (drawByte s).1 .ack, by simp [performRx]⟩
  | rxNack => exact .inr ⟨.rx (drawByte s).1 .nack, by simp [performRx]⟩

theorem performs_inv {u s : State} {f : State → State} (hf : Performs u f) (heng : s.eng = u.eng) (h : Inv s) :
    Inv (f s) := by
  obtain ⟨hseq, hport, hrsps, -⟩ := performs_keepsCommand hf s
  obtain ⟨w, hemits⟩ := performs_emits hf heng
  have hrun := running_congr hseq hport
  have hdone := performs_done hf s
  refine ⟨by rw [hemits.par]; exact h.budgets, ?done, emits_wireShape hemits h.wire, performs_lines hf heng h.lines,
    by rw [hseq, hport]; exact h.phaseBusy, by rw [hseq, hport]; exact h.wsub, by rw [hseq, hport]; exact h.illegal,
    by rw [hseq, hport, hrun]; exact h.sequence, ?awaits, by rw [hseq, hemits.par]; exact h.counter,
    by rw [hseq]; exact h.timedOut, by rw [hrsps, hport]; exact h.response, ?device⟩
  case done =>
    rcases hdone with ⟨hdone, hpend⟩ | ⟨-, hpend⟩
    · rw [hdone, hpend]
      exact h.doneMeansPerformed
    · exact fun _ => hpend
  case awaits =>
    rcases hdone with ⟨hdone, hpend⟩ | ⟨hdone, -⟩
    · rw [hseq, hdone, hpend]
      exact h.awaits
    · simp [hdone]
  case device =>
    rcases performs_device hf s with hdevice | ⟨e, hdevice⟩ <;> rw [hdevice]
    · exact h.device
    · simpa using fun d hd => RefSlave.observe_wf e (h.device d hd)

/-! ### The invariant -/

/-- Settles O45: nothing is in progress after reset, and the budgets are not 0 whatever they are. -/
theorem invariantAtReset : Obligations.InvariantAtReset := by
  unfold Obligations.InvariantAtReset
  constructor
  case budgets => exact ⟨budgetStart_ne_zero, budgetWrite_ne_zero⟩
  case device => exact nofun
  all_goals decide

/-- Settles O46: by the kind of step, each keeping the invariant. -/
theorem invariantKept : Obligations.InvariantKept := by
  unfold Obligations.InvariantKept
  intro s t h hstep
  have hinv := takeTurn_inv h
  cases step_acted hstep with
  | waits => exact hinv
  | accepts _ w rest => exact accept_inv w (inv_congr hinv rfl rfl rfl rfl rfl rfl rfl)
  | takes => exact inv_congr hinv rfl rfl rfl rfl rfl rfl rfl
  | answers _ hbusy hrun => exact respondIllegal_inv hinv hbusy hrun
  | runs _ i hrun => exact seqStep_inv hinv hrun
  | asks => exact drawReady_inv hinv
  | performs _ _ f hf => exact performs_inv hf (drawReady_eng _) (drawReady_inv hinv)

end Sys2Proof.Proofs
end

section
/-! Proofs about runs (41_transport_primitives.md R143, R149, R152, 42_register_access.md R171): a hung reception stays hung,
and PRIMS follows the sequence of the command in execution. -/

namespace Sys2Proof.Proofs

open Sys2Proof Sys2Proof.Machine

/-! ### A reception that hangs (R143, R230) -/

theorem hung_iff (s : State) : hung s = true ↔ s.port.busy = true ∧ s.seq.legal = true ∧ s.seq.phase = .issued ∧
    s.seq.prim.reception = true ∧ s.eng.done = false ∧ s.eng.pend = s.seq.prim.request ∧
    (s.eng.en = false ∨ s.eng.isOpen = false ∨ s.eng.stopReq = true) := by
  simp [hung, and_assoc, or_assoc]

/-- What keeps a reception from ever being performed, as far as the engine is concerned. -/
def Blocked (p : Prim) (e : Engine) : Prop :=
  e.done = false ∧ e.pend = p.request ∧ (e.en = false ∨ e.isOpen = false ∨ e.stopReq = true)

/-- The only operation a blocked engine can perform is a stop, which closes the bus. -/
theorem performs_blocked {u s : State} {f : State → State} {p : Prim} (hf : Performs u f) (heng : s.eng = u.eng)
    (hp : p.reception = true) (h : Blocked p s.eng) : Blocked p (f s).eng := by
  obtain ⟨hdone, hpend, hwhy⟩ := h
  have hstop : s.eng.stopReq = true := by
    obtain ⟨hen, hrequest⟩ := performs_requested hf
    rw [← heng] at hen hrequest
    rcases hrequest with hstop | ⟨-, hstart | ⟨-, hopen⟩⟩
    · exact hstop
    · rw [hpend] at hstart
      cases p <;> cases hp <;> cases hstart
    · simpa [hen, hopen] using hwhy
  cases hf with
  | stop => cases hopen : s.eng.isOpen <;> simp [Blocked, performStop, hopen, hdone, hpend]
  | start hcan => simp [canStart, ← heng, hstop] at hcan
  | tx hcan => simp [canTx, ← heng, hstop] at hcan
  | rxAck hcan => simp [canRxAck, ← heng, hstop] at hcan
  | rxNack hcan => simp [canRxNack, ← heng, hstop] at hcan

theorem step_blocked {s t : State} {p : Prim} (hbusy : s.port.busy = true) (hrun : running s ≠ none)
    (hphase : s.seq.phase = .issued) (hp : p.reception = true) (h : Blocked p s.eng) (hstep : step s = .next t) :
    Blocked p t.eng := by
  rw [← takeTurn_eng s] at h
  cases step_acted hstep with
  | waits => exact h
  | accepts _ _ _ hidle | takes _ _ hidle => simp [hbusy] at hidle
  | answers _ _ hnone => exact absurd ((takeTurn_running s).symm.trans hnone) hrun
  | runs _ i hi => rwa [seqStep_poll (by simpa using hbusy) (by simpa using hphase), poll_eng]
  | asks => rwa [drawReady_eng]
  | performs _ _ f hf => exact performs_blocked hf (drawReady_eng _) hp (by rwa [drawReady_eng])

theorem step_hung {s t : State} (hhung : hung s = true) (hrun : running s ≠ none) (h : step s = .next t) :
    hung t = true ∧ t.port = s.port ∧ t.seq = s.seq ∧ t.hist.rsps = s.hist.rsps := by
  obtain ⟨hbusy, hlegal, hphase, hp, hblocked⟩ := (hung_iff s).mp hhung
  obtain ⟨hport, hrsps, hpoll, hother⟩ := step_waiting hrun hphase h
  have hseq : t.seq = s.seq := by
    by_cases hturn : t.inp.turn = .seq
    · rw [(hpoll hturn).2, hblocked.1, poll_false_reception ((reception_iff _).mp hp)]
    · exact hother hturn
  refine ⟨?_, hport, hseq, hrsps⟩
  rw [hung_iff, hport, hseq]
  exact ⟨hbusy, hlegal, hphase, hp, step_blocked hbusy hrun hphase hp hblocked h⟩

/-- Settles O48: by induction on the run, each step keeping the hang. -/
theorem hangIsForEver : Obligations.HangIsForEver := by
  unfold Obligations.HangIsForEver
  intro n
  induction n with
  | zero =>
    intro s t hhung _ h
    cases h
    exact ⟨hhung, rfl, rfl, rfl⟩
  | succ n ih =>
    intro s t hhung hrun h
    obtain ⟨u, hstep, hrest⟩ := steps_succ.mp h
    obtain ⟨hhung', hport, hseq, hrsps⟩ := step_hung hhung hrun hstep
    rw [← running_congr hseq hport] at hrun
    rw [← hport, ← hseq, ← hrsps]
    exact ih u t hhung' hrun hrest

/-! ### The calls of a sequence (R152) -/

/-- The invocation a primitive appends to PRIMS; ENABLE appends none. -/
def callOf : PrimOp → List PrimCall
  | .enable => []
  | .start => [.start]
  | .stop => [.stop]
  | .write b => [.writeByte b]
  | .rdAck => [.readByteAck]
  | .rdNack => [.readByteNack]

/-- The calls of the steps before `k + 1` are those before `k` and that of step `k`. -/
theorem take_callsOf_succ {i : Instr} {k : BitVec 4} {row : SeqRow} (h : rowAt (seqOf i) k = some row) :
    (Claims.callsOf i).take (k.toNat + 1) = (Claims.callsOf i).take k.toNat ++ callOf row.op := by
  have hlt := lt_lengthOf_of_rowAt h
  rw [rowAt] at h
  generalize k.toNat = n at h hlt ⊢
  cases i <;> simp only [Claims.lengthOf] at hlt <;> interval_cases n <;> cases h <;>
    simp [Claims.callsOf, callOf, SeqRow.reporting, SeqRow.silent, addrByte_eq_append, dirWrite, dirRead]

theorem take_callsOf_lengthOf (i : Instr) : (Claims.callsOf i).take (Claims.lengthOf i) = Claims.callsOf i := by
  cases i <;> rfl

theorem primAt_of_rowAt {i : Instr} {k : BitVec 4} {row : SeqRow} (h : rowAt (seqOf i) k = some row) :
    Claims.primAt i k.toNat = some row.op.prim := by
  have hlt := lt_lengthOf_of_rowAt h
  rw [rowAt] at h
  generalize k.toNat = n at h hlt ⊢
  cases i <;> simp only [Claims.lengthOf] at hlt <;> interval_cases n <;> cases h <;> rfl

/-- An issue step appends its primitive's call; the second one of a WRITE appends nothing. -/
theorem issued_prims {op : PrimOp} {s t : State} (h : Issued s op t) (hsub : s.seq.wsub = true → op.prim = .write) :
    t.hist.prims = s.hist.prims ++ if s.seq.wsub = true then [] else callOf op := by
  cases h with
  | load b hload => rw [if_neg (by simp [hload])]; rfl
  | trigger b htrigger => rw [if_pos htrigger, List.append_nil]; rfl
  | enable => simp [Claims.afterEnable, callOf]
  | start | stop | rdAck | rdNack => rw [if_neg (fun h => nomatch hsub h)]; rfl

/-- After an issue step the primitive at STEP counts as issued: it waits, has completed, or is half a WRITE. -/
theorem issued_active {op : PrimOp} {s t : State} (h : Issued s op t) : t.seq.phase ≠ .idle ∨ t.seq.wsub = true := by
  cases h with
  | load => exact .inr rfl
  | enable | start | stop | trigger | rdAck | rdNack => exact .inl nofun

/-! ### PRIMS follows the sequence -/

/-- `issuedSoFar` while a primitive is in progress, and between two primitives. -/
theorem issuedSoFar_active {base : List PrimCall} {i : Instr} {s : State} (hrun : running s = some i)
    (hlt : s.seq.stepIdx.toNat < Claims.lengthOf i) (hactive : s.seq.phase ≠ .idle ∨ s.seq.wsub = true)
    (hsub : s.seq.wsub = true → s.seq.phase = .idle ∧ Claims.primAt i s.seq.stepIdx.toNat = some .write)
    (hprims : s.hist.prims = base ++ (Claims.callsOf i).take (s.seq.stepIdx.toNat + 1)) : Claims.issuedSoFar base i s :=
  ⟨hrun, hlt.le, fun _ => hlt, hsub, by rw [hprims, if_pos hactive]⟩

theorem issuedSoFar_idle {base : List PrimCall} {i : Instr} {s : State} (hrun : running s = some i)
    (hle : s.seq.stepIdx.toNat ≤ Claims.lengthOf i) (hphase : s.seq.phase = .idle) (hsub : s.seq.wsub = false)
    (hprims : s.hist.prims = base ++ (Claims.callsOf i).take s.seq.stepIdx.toNat) : Claims.issuedSoFar base i s := by
  refine ⟨hrun, hle, by simp [hphase], by simp [hsub], ?_⟩
  simp [hprims, hphase, hsub]

theorem issuedSoFar_congr {base : List PrimCall} {i : Instr} {s t : State} (h : Claims.issuedSoFar base i s)
    (hseq : t.seq = s.seq) (hport : t.port = s.port) (hprims : t.hist.prims = s.hist.prims) :
    Claims.issuedSoFar base i t := by
  rwa [Claims.issuedSoFar, running_congr hseq hport, hseq, hprims]

theorem issue_follows {base : List PrimCall} {i : Instr} {s : State} {row : SeqRow} (h : Claims.issuedSoFar base i s)
    (hphase : s.seq.phase = .idle) (hrow : rowAt (seqOf i) s.seq.stepIdx = some row) :
    Claims.issuedSoFar base i (issue row.op s) := by
  obtain ⟨hrun, hle, -, hsub, hprims⟩ := h
  have hissued := issued_issue row.op s
  have hstep := issued_stepIdx hissued
  have hat := primAt_of_rowAt hrow
  have hwrite : s.seq.wsub = true → row.op.prim = .write := fun hs => Option.some.inj (hat.symm.trans (hsub hs).2)
  refine issuedSoFar_active ((running_of_operands (issued_port hissued) (issue_operands row.op s)).trans hrun)
    (by rw [hstep]; exact lt_lengthOf_of_rowAt hrow) (issued_active hissued) ?_ ?_
  · intro hs
    obtain ⟨hidle, hprim⟩ := issued_wsub hissued (fun hs => ⟨hphase, hwrite hs⟩) hphase hs
    exact ⟨hidle, by rw [hstep, hat, hprim]⟩
  · rw [issued_prims hissued hwrite, hstep, take_callsOf_succ hrow, hprims]
    cases hs : s.seq.wsub <;> simp [hphase, take_callsOf_succ hrow]

theorem poll_follows {base : List PrimCall} {i : Instr} {s : State} (h : Claims.issuedSoFar base i s)
    (hphase : s.seq.phase = .issued) : Claims.issuedSoFar base i (poll s) := by
  obtain ⟨hrun, -, hlt, hsub, hprims⟩ := h
  have hactive : s.seq.phase ≠ .idle := by simp [hphase]
  obtain ⟨-, hwsub, hstep⟩ := poll_frame s.seq s.eng.done
  rw [← poll_seq] at hwsub hstep
  refine issuedSoFar_active ((running_of_operands (poll_port s) (poll_operands s)).trans hrun)
    (by rw [hstep]; exact hlt hactive) (.inl (poll_seq s ▸ poll_phase_ne_idle _ hphase)) ?_ ?_
  · intro hs
    exact absurd (hsub (hwsub.symm.trans hs)).1 hactive
  · rw [if_pos (.inl hactive)] at hprims
    rw [hstep, ← hprims, poll_eq]

theorem retire_follows {base : List PrimCall} {i : Instr} {s : State} (row : SeqRow) (h : Claims.issuedSoFar base i s)
    (hphase : s.seq.phase ≠ .idle) : Claims.issuedSoFar base i (retire row s) := by
  obtain ⟨hrun, -, hlt, hsub, hprims⟩ := h
  have hstep := (retire_stepIdx row s ▸ toNat_stepIdx_succ (hlt hphase) :
    (retire row s).seq.stepIdx.toNat = s.seq.stepIdx.toNat + 1)
  refine issuedSoFar_idle ((running_of_operands (retire_port row s) (retire_operands row s)).trans hrun)
    (by rw [hstep]; exact hlt hphase) rfl ?_ ?_
  · rw [retire_wsub]
    by_contra hs
    exact hphase (hsub (by simpa using hs)).1
  · rw [if_pos (.inl hphase)] at hprims
    rw [hstep, ← hprims, retire_hist]

/-- At the end of the sequence every call has been issued. -/
theorem prims_at_end {base : List PrimCall} {i : Instr} {s : State} (h : Claims.issuedSoFar base i s)
    (hphase : s.seq.phase = .idle) (hend : rowAt (seqOf i) s.seq.stepIdx = none) :
    s.hist.prims = base ++ Claims.callsOf i := by
  obtain ⟨-, hle, -, hsub, hprims⟩ := h
  have hlast : s.seq.stepIdx.toNat = Claims.lengthOf i := by
    rw [rowAt, List.getElem?_eq_none_iff, length_seqOf] at hend
    exact le_antisymm hle hend
  have hwsub : s.seq.wsub = false := by
    by_contra hs
    obtain ⟨-, hat⟩ := hsub (by simpa using hs)
    obtain ⟨row, hrow, -⟩ := rowAt_of_primAt hat
    simp [hend] at hrow
  simpa [hphase, hwsub, hlast, take_callsOf_lengthOf] using hprims

theorem seqStep_follows {base : List PrimCall} {i : Instr} {s : State} (h : Claims.issuedSoFar base i s) :
    Claims.issuedSoFar base i (seqStep (seqOf i) (dataOf i) s) ∨
    ((seqStep (seqOf i) (dataOf i) s).port.busy = false ∧
      (seqStep (seqOf i) (dataOf i) s).hist.prims = base ++ Claims.callsOf i) := by
  rcases seqStep_cases (seqOf i) (dataOf i) s (running_busy h.1).1 with
    ⟨row, hphase, hrow, h'⟩ | ⟨hphase, hend, h'⟩ | ⟨hphase, h'⟩ | ⟨hphase, h'⟩ <;> rw [h']
  · exact .inl (issue_follows h hphase hrow)
  · have hprims := prims_at_end h hphase hend
    exact .inr ⟨rfl, hprims⟩
  · exact .inl (poll_follows h hphase)
  · exact .inl (retire_follows _ h (phase_ne_idle_of_ended hphase))

theorem step_follows {base : List PrimCall} {i : Instr} {s t : State} (h : Claims.issuedSoFar base i s)
    (hstep : step s = .next t) :
    Claims.issuedSoFar base i t ∨ (t.port.busy = false ∧ t.hist.prims = base ++ Claims.callsOf i) := by
  have h' : Claims.issuedSoFar base i (takeTurn s) :=
    issuedSoFar_congr h (takeTurn_seq s) (takeTurn_port s) (by rw [takeTurn_hist])
  obtain ⟨hrun, -⟩ := id h'
  have hbusy := (running_busy hrun).1
  cases step_acted hstep with
  | waits => exact .inl h'
  | accepts _ _ _ hidle | takes _ _ hidle => cases hbusy.symm.trans hidle
  | answers _ _ hnone => cases hrun.symm.trans hnone
  | runs _ j hj =>
    cases hj.symm.trans hrun
    exact seqStep_follows h'
  | asks => exact .inl (issuedSoFar_congr h' (drawReady_seq _) (drawReady_port _) (by rw [drawReady_hist]))
  | performs _ _ f hf =>
    obtain ⟨hseq, hport, -, -⟩ := performs_keepsCommand hf (drawReady (takeTurn s)).2
    obtain ⟨w, hemits⟩ := performs_emits hf (drawReady_eng _)
    refine .inl (issuedSoFar_congr h' (hseq.trans (drawReady_seq _)) (hport.trans (drawReady_port _)) ?_)
    rw [hemits.hist, drawReady_hist]

theorem issuedSoFar_of_justAccepted {i : Instr} {s : State} (h : justAccepted i s) :
    Claims.issuedSoFar s.hist.prims i s := by
  obtain ⟨hrun, hphase, hstep, hsub⟩ := h
  exact issuedSoFar_idle hrun (by simp [hstep]) hphase hsub (by simp [hstep])

/-- Settles O56: PRIMS counts the calls of the rows before STEP, and an issue step appends that of its row. -/
theorem primitivesFollowTheSequence : Obligations.PrimitivesFollowTheSequence := by
  unfold Obligations.PrimitivesFollowTheSequence
  exact ⟨fun i s _ h => issuedSoFar_of_justAccepted h, fun base i s t h hstep => step_follows h hstep⟩

theorem prims_of_respondsAfter {base : List PrimCall} {i : Instr} {n : Nat} {s t u : State}
    (h : Claims.issuedSoFar base i s) (hresponds : respondsAfter n s t u) : u.hist.prims = base ++ Claims.callsOf i := by
  induction n generalizing s with
  | zero =>
    obtain ⟨-, -, hlast, hidle⟩ := hresponds
    obtain ⟨v, hstep, hv⟩ := steps_succ.mp hlast
    cases hv
    rcases step_follows h hstep with h' | ⟨-, hprims⟩
    · cases (running_busy h'.1).1.symm.trans hidle
    · exact hprims
  | succ n ih =>
    obtain ⟨hrun, hbusy, hlast, hidle⟩ := hresponds
    obtain ⟨v, hstep, hrest⟩ := steps_succ.mp hrun
    obtain ⟨v', hstep', hlast'⟩ := steps_succ.mp hlast
    cases hstep.symm.trans hstep'
    rcases step_follows h hstep with h' | ⟨hidle', -⟩
    · exact ih h' ⟨hrest, fun k hk x hx => hbusy (k + 1) (by omega) x (steps_cons hstep hx), hlast', hidle⟩
    · cases (hbusy 1 (by omega) v (steps_cons hstep rfl)).symm.trans hidle'

/-- Settles O40: by induction on the run, with `step_follows` for each of its steps. -/
theorem primitivesIssuedWhateverFails : Obligations.PrimitivesIssuedWhateverFails := by
  unfold Obligations.PrimitivesIssuedWhateverFails
  intro i n s t u _ haccepted hresponds
  exact prims_of_respondsAfter (issuedSoFar_of_justAccepted haccepted) hresponds

end Sys2Proof.Proofs
end

section
/-! Proofs about commands run alone (41_transport_primitives.md R141 to R147), and about the instruction a step runs
(00_scope.md R9): a transport command is an issue, its polls, a retire and a respond step. -/

namespace Sys2Proof.Proofs

open Sys2Proof Sys2Proof.Machine

/-! ### A step runs an instruction -/

theorem step_eng {s : State} {as : List Agent} (h : s.inp.sched = .eng :: as) :
    step s = runFetched (fetchEng (takeTurn s)) := by
  simp [step, fetch, takeTurn_cons h]

/-- On a turn of ENG the ENSET bit of an operation's word has no effect left (log 5). -/
theorem engineOp_enset {e e' : Bool} {op : CtlOp} {can : Engine → Bool} {f : State → State} {s : State}
    (hturn : s.inp.turn = .eng) : engineOp e op can f s = engineOp e' op can f s := by
  simp only [engineOp, hturn, if_true]

theorem step_seq_running {s : State} {i : Instr} {as : List Agent} (hrun : running s = some i)
    (hsched : s.inp.sched = .seq :: as) : step s = exec i (takeTurn s) := by
  rw [step_seq hsched, fetchSeq_running ((takeTurn_running s).trans hrun)]
  rfl

theorem exec_issue_of_primAt {i : Instr} {u : State} {p : Prim} (hcmd : isCommand i = true) (hbusy : u.port.busy = true)
    (hphase : u.seq.phase = .idle) (hat : Claims.primAt i u.seq.stepIdx.toNat = some p) :
    ∃ op : PrimOp, op.prim = p ∧ exec i u = .next (issue op u) := by
  obtain ⟨row, hrow, hprim, -⟩ := rowAt_of_primAt hat
  exact ⟨row.op, hprim, exec_issue hcmd hbusy hphase hrow⟩

/-- Settles O21: a turn of SEQ runs the latched command and a turn of ENG the operation requested; an issue step is the
request of its word. -/
theorem stepRunsDecodedInstruction : Obligations.StepRunsDecodedInstruction := by
  unfold Obligations.StepRunsDecodedInstruction
  constructor
  · intro s i as hsched hbusy hlegal hdecode u
    have hrun : running s = some i := by
      simp [running, hbusy, hlegal, show decodeCmd (latchedWord s.seq) = .instr i from hdecode, Decoded.toOption]
    have hstep : step s = exec i u := by rw [step_seq_running hrun hsched, takeTurn_cons hsched]
    have hcmd := running_isCommand hrun
    refine ⟨hstep, fun hphase => ?_⟩
    rw [hstep]
    have hrequest {e op can f} {v : State} (hv : v.inp.turn = .seq) : engineOp e op can f v = ctlWrite e op v :=
      engineOp_request (by simp [hv])
    refine ⟨?_, ?_, ?_, ?_, ?_, ?_⟩ <;> intro hat <;>
      obtain ⟨op, hop, hexec⟩ := exec_issue_of_primAt (u := u) hcmd hbusy hphase hat <;> cases op <;> cases hop <;>
      rw [hexec]
    · rfl
    · symm; exact congrArg _ (hrequest rfl)
    · symm; exact congrArg _ (hrequest rfl)
    · intro hsub
      rw [issue, if_pos hsub]
      symm; exact congrArg _ (hrequest rfl)
    · symm; exact congrArg _ (hrequest rfl)
    · symm; exact congrArg _ (hrequest rfl)
  · intro s as e hsched u
    have hstep : step s = runFetched (fetchEng u) := by rw [step_eng hsched, takeTurn_cons hsched]
    rw [hstep, fetchEng]
    refine ⟨fun hstop => ?_, fun hstop hpend => ?_, fun hstop hpend => ?_, fun hstop hpend => ?_, fun hstop hpend => ?_⟩
    · rw [if_pos hstop]
      exact congrArg _ (engineOp_enset rfl)
    all_goals
      rw [if_neg (by simp [u, hstop]), show u.eng.pend = _ from hpend]
      exact congrArg _ (engineOp_enset rfl)

/-! ### Running one command -/

theorem execMany_one {i : Instr} {s t : State} (h : exec i s = .next t) : execMany i 1 s = .next t := by
  rw [execMany, h]
  rfl

theorem execMany_trans {i : Instr} {m n : Nat} {s t u : State} (h : execMany i m s = .next t)
    (h' : execMany i n t = .next u) : execMany i (m + n) s = .next u := by
  induction m generalizing s with
  | zero =>
    cases h
    rwa [Nat.zero_add]
  | succ m ih =>
    rw [Nat.succ_add, execMany]
    rw [execMany] at h
    cases hs : exec i s with
    | next v =>
      rw [hs] at h
      exact ih h
    | fault | refused => simp [hs] at h

/-- A transport command with an ended primitive retires it into slot 0 and responds. -/
theorem execMany_end {i : Instr} {op : PrimOp} {s : State} (hcmd : isCommand i = true) (hseq : seqOf i = seqTransport op)
    (hbusy : s.port.busy = true) (hphase : s.seq.phase = .completed ∨ s.seq.phase = .timedOut)
    (hstep : s.seq.stepIdx = 0) :
    execMany i 2 s = .next (respond (dataOf i) (retire (SeqRow.reporting op 0) s)) := by
  have hrow : rowAt (seqOf i) s.seq.stepIdx = some (SeqRow.reporting op 0) := by rw [hstep, hseq]; rfl
  have hend : rowAt (seqOf i) (s.seq.stepIdx + 1) = none := by rw [hstep, hseq]; rfl
  have hretire := exec_retire hcmd hbusy hphase
  rw [retireRow_of_rowAt hrow] at hretire
  rw [execMany_succ (execMany_one hretire), exec_command hcmd,
    seqStep_respond (by rw [retire_port, hbusy]) rfl (by rw [retire_stepIdx, hend])]

/-- The response of a transport command whose slots 1 to 4 have not been written. -/
theorem respond_retire {op : PrimOp} {s : State} (h1 : s.seq.o1 = .notRun) (h2 : s.seq.o2 = .notRun)
    (h3 : s.seq.o3 = .notRun) (h4 : s.seq.o4 = .notRun) {o : StepOutcome} (ho : outcomeOf s = o) :
    (respond dataNone (retire (SeqRow.reporting op 0) s)).port =
      { busy := false, rsp := Claims.response false o .notRun .notRun .notRun .notRun 0#16 } := by
  have hslots : (retire (SeqRow.reporting op 0) s).seq =
      { s.seq with o0 := o, phase := .idle, stepIdx := s.seq.stepIdx + 1 } := ho ▸ retire_seq _ _
  rw [respond, deliver_port, rspWord_eq_response, hslots]
  simp only [h1, h2, h3, h4]
  rfl

/-- Settles O36: issue, retire, respond. -/
theorem enableWhole : Obligations.EnableWhole := by
  unfold Obligations.EnableWhole
  intro s ⟨hrun, hphase, hstep, _⟩ h1 h2 h3 h4
  have hbusy := (running_busy hrun).1
  have hissue := (transportIssueSteps s ⟨hbusy, hphase, hstep⟩).1
  have hend := execMany_end (s := Claims.afterEnable s) (i := .enable) rfl rfl hbusy (.inl rfl) hstep
  refine ⟨_, execMany_trans (execMany_one hissue) hend, ?_, ?_, ?_, ?_⟩
  · rw [respond, deliver_eng, retire_eng]; rfl
  · rw [dataOf, respond_retire (s := Claims.afterEnable s) (o := .ok) h1 h2 h3 h4 rfl]; rfl
  · simp [respond, retire_hist, Claims.afterEnable]
  · simp [respond, retire_hist, Claims.afterEnable]

/-- Settles O37: issue, retire, respond, with no poll between. -/
theorem stopWhole : Obligations.StopWhole := by
  unfold Obligations.StopWhole
  intro s ⟨hrun, hphase, hstep, _⟩ h1 h2 h3 h4
  have hbusy := (running_busy hrun).1
  have hissue := (transportIssueSteps s ⟨hbusy, hphase, hstep⟩).2.2.1
  have hend := execMany_end (s := Claims.afterStop s) (i := .stop) rfl rfl hbusy (.inl rfl) hstep
  refine ⟨_, execMany_trans (execMany_one hissue) hend, ?_, ?_, ?_, ?_, ?_⟩
  · rw [respond, deliver_eng, retire_eng]; rfl
  · rw [dataOf, respond_retire (s := Claims.afterStop s) (o := .ok) h1 h2 h3 h4 rfl]; rfl
  · simp [respond, retire_hist, Claims.afterStop]
  · simp [respond, retire_hist, Claims.afterStop]
  · simp [respond, retire_hist, Claims.afterStop, looksAtAck, SeqRow.reporting]

/-- A guarded wait of a transport command that never sees DONE: its budget in polls, retire, respond. -/
theorem execMany_timeout {i : Instr} {op : PrimOp} {s : State} (hseq : seqOf i = seqTransport op) (hwaits : Waits i s)
    (hprim : s.seq.prim = .start ∨ s.seq.prim = .write) (hdone : s.eng.done = false) (hcnt : s.seq.cnt ≠ 0)
    (hstep : s.seq.stepIdx = 0) : execMany i (s.seq.cnt.toNat + 2) s =
      .next (respond (dataOf i) (retire (SeqRow.reporting op 0) (afterPolls s.seq.cnt.toNat .timedOut s))) :=
  execMany_trans (execMany_budget hwaits hprim hdone hcnt)
    (execMany_end (s := afterPolls s.seq.cnt.toNat .timedOut s) hwaits.command hseq hwaits.busy (.inr rfl) hstep)

/-- What a command that has timed out leaves: the answer, the engine with its request, and the polls in the register
trace. -/
theorem respond_timeout {op : PrimOp} {k : Nat} {s : State} (hprim : s.seq.prim = .start ∨ s.seq.prim = .write)
    (hdone : s.eng.done = false) (h1 : s.seq.o1 = .notRun) (h2 : s.seq.o2 = .notRun) (h3 : s.seq.o3 = .notRun)
    (h4 : s.seq.o4 = .notRun) :
    let t := respond dataNone (retire (SeqRow.reporting op 0) (afterPolls k .timedOut s))
    t.port = { busy := false, rsp := 0x43FD0000#32 } ∧ t.hist.wire = s.hist.wire ∧ t.eng = s.eng ∧
      t.hist.regs = s.hist.regs ++ List.replicate k (.statRead (0#1 ++ BitVec.ofBool s.eng.acked ++ 0#6)) := by
  have hout : outcomeOf (afterPolls k .timedOut s) = .timeout := by
    rcases hprim with h | h <;> simp [outcomeOf, afterPolls, h, Prim.guarded]
  refine ⟨?_, ?_, ?_, ?_⟩
  · rw [respond_retire (s := afterPolls k .timedOut s) h1 h2 h3 h4 hout]; rfl
  · simp [respond, retire_hist, afterPolls, statReads]
  · simp [respond, afterPolls]
  · simp [respond, retire_hist, looksAtAck, SeqRow.reporting, afterPolls, statReads, Claims.statByte, hdone]

/-- Settles O38: after the issue steps the wait is `execMany_timeout`. -/
theorem timeoutWhole : Obligations.TimeoutWhole := by
  unfold Obligations.TimeoutWhole
  intro s h1 h2 h3 h4 hstart hwrite
  constructor
  · intro ⟨hrun, hphase, hstep, _⟩
    have hbusy := (running_busy hrun).1
    have hissue := (transportIssueSteps s ⟨hbusy, hphase, hstep⟩).2.1
    have hwait := execMany_timeout (s := Claims.afterStart s) (i := .start) rfl ⟨rfl, hbusy, rfl⟩ (.inl rfl) rfl hstart hstep
    obtain ⟨hport, hwire, heng, hregs⟩ := respond_timeout (op := .start) (k := s.par.budgetStart.toNat)
      (s := Claims.afterStart s) (.inl rfl) rfl h1 h2 h3 h4
    refine ⟨_, ?_, hport, hwire, heng, hregs⟩
    rw [show s.par.budgetStart.toNat + 3 = 1 + (s.par.budgetStart.toNat + 2) by omega]
    exact execMany_trans (execMany_one hissue) hwait
  · intro b ⟨hrun, hphase, hstep, hsub⟩
    have hbusy := (running_busy hrun).1
    have hload := (writeIssueSteps b s ⟨hbusy, hphase, hstep⟩).1 hsub
    have htrigger := (writeIssueSteps b (Claims.afterLoad b s) ⟨hbusy, hphase, hstep⟩).2 rfl
    have hwait := execMany_timeout (s := Claims.afterTrigger (Claims.afterLoad b s)) (i := .write b) rfl ⟨rfl, hbusy, rfl⟩
      (.inr rfl) rfl hwrite hstep
    obtain ⟨hport, hwire, heng, hregs⟩ := respond_timeout (op := .write b) (k := s.par.budgetWrite.toNat)
      (s := Claims.afterTrigger (Claims.afterLoad b s)) (.inr rfl) rfl h1 h2 h3 h4
    refine ⟨_, ?_, hport, hwire, heng, ?_⟩
    · rw [show s.par.budgetWrite.toNat + 4 = 2 + (s.par.budgetWrite.toNat + 2) by omega]
      exact execMany_trans ((execMany_succ (execMany_one hload)).trans htrigger) hwait
    · rw [hregs]
      simp [Claims.afterTrigger, Claims.afterLoad]

end Sys2Proof.Proofs
end

section
/-! Proofs about commands served at once (41_transport_primitives.md section 2, 42_register_access.md R172 to R174): a rule
for each primitive issued, performed, polled and retired without delay, and each command as a chain of these rules. -/

namespace Sys2Proof.Proofs

open Sys2Proof Sys2Proof.Machine

/-! ### Where a scripted run stands -/

/-- What a scripted run goes by: the turns and Env's answers to come, the latches and slots, the wire trace, the engine. -/
structure Scene where
  sched : List Agent
  ready : List Bool
  ack : List Bool
  byte : List Byte
  latches : Seqr
  wire : List WireEvent
  eng : Engine

/-- The operand and result latches and the outcome slots: the sequencer less STEP and the wait for a primitive. -/
def latchesOf (q : Seqr) : Seqr :=
  { q with phase := .idle, cnt := 0, prim := .start, pbyte := 0, wsub := false, stepIdx := 0 }

def sceneOf (s : State) : Scene :=
  { sched := s.inp.sched, ready := s.inp.readyIn, ack := s.inp.ackIn, byte := s.inp.byteIn, latches := latchesOf s.seq,
    wire := s.hist.wire, eng := s.eng }

/-- The command `i` is in execution at its step `k`, in a phase and between no two issue steps. -/
structure At (i : Instr) (k : BitVec 4) (p : Phase) (c : Scene) (s : State) : Prop where
  run : running s = some i
  step : s.seq.stepIdx = k
  phase : s.seq.phase = p
  wsub : s.seq.wsub = false
  scene : sceneOf s = c

theorem steps_trans {m n : Nat} {s t u : State} (h : Steps m s t) (h' : Steps n t u) : Steps (m + n) s u := by
  induction m generalizing s with
  | zero =>
    cases h
    rwa [Nat.zero_add]
  | succ m ih =>
    obtain ⟨v, hstep, hrest⟩ := steps_succ.mp h
    rw [Nat.succ_add]
    exact steps_cons hstep (ih hrest)

section
variable {i : Instr} {k : BitVec 4} {p p' : Phase} {c c' : Scene} {s t : State} {row : SeqRow}
  {as : List Agent} {rs acks : List Bool} {bs : List Byte} {x : Seqr} {w : List WireEvent} {e : Engine}

theorem at_move (h : At i k p c s) (hport : t.port = s.port) (hops : operandsOf t.seq = operandsOf s.seq)
    (hstep : t.seq.stepIdx = s.seq.stepIdx) (hphase : t.seq.phase = p') (hsub : t.seq.wsub = false)
    (hscene : sceneOf t = c') : At i k p' c' t :=
  ⟨(running_of_operands hport hops).trans h.run, hstep.trans h.step, hphase, hsub, hscene⟩

theorem at_of_seq (h : At i k p c s) (hseq : t.seq = s.seq) (hport : t.port = s.port) (hscene : sceneOf t = c') :
    At i k p c' t :=
  at_move h hport (by rw [hseq]) (by rw [hseq]) (by rw [hseq, h.phase]) (by rw [hseq, h.wsub]) hscene

theorem sceneOf_eq_iff : sceneOf s = ⟨as, rs, acks, bs, x, w, e⟩ ↔ s.inp.sched = as ∧ s.inp.readyIn = rs ∧
    s.inp.ackIn = acks ∧ s.inp.byteIn = bs ∧ latchesOf s.seq = x ∧ s.hist.wire = w ∧ s.eng = e := by
  simp [sceneOf]

theorem at_sched {a : Agent} (h : At i k p ⟨a :: as, rs, acks, bs, x, w, e⟩ s) : s.inp.sched = a :: as :=
  congrArg Scene.sched h.scene

theorem at_takeTurn {a : Agent} (h : At i k p ⟨a :: as, rs, acks, bs, x, w, e⟩ s) :
    At i k p ⟨as, rs, acks, bs, x, w, e⟩ (takeTurn s) := by
  refine at_of_seq h (takeTurn_seq s) (takeTurn_port s) ?_
  have hscene := sceneOf_eq_iff.mp h.scene
  rw [takeTurn_cons hscene.1]
  simp [sceneOf, hscene]

/-! ### A turn of SEQ -/

theorem step_at_issue (h : At i k .idle ⟨.seq :: as, rs, acks, bs, x, w, e⟩ s) (hrow : rowAt (seqOf i) k = some row) :
    step s = .next (issue row.op (takeTurn s)) := by
  have hu := at_takeTurn h
  rw [step_seq_running h.run (at_sched h), exec_issue (running_isCommand h.run) (running_busy hu.run).1 hu.phase]
  rw [hu.step, hrow]

/-- The engine once an operation has been requested of it. -/
def request (e : Engine) (p : Pend) : Engine := { e with done := false, pend := p }

theorem at_start (h : At i k .idle ⟨.seq :: as, rs, acks, bs, x, w, e⟩ s) (hrow : rowAt (seqOf i) k = some row)
    (hop : row.op = .start) : ∃ t, step s = .next t ∧ t.seq.prim = .start ∧
      At i k .issued ⟨as, rs, acks, bs, x, w, request e .start⟩ t := by
  have hu := at_takeTurn h
  refine ⟨_, step_at_issue h hrow, ?_⟩
  rw [hop, issue_start]
  exact ⟨rfl, at_move hu rfl rfl rfl rfl hu.wsub (by cases hu.scene; rfl)⟩

theorem at_stop (h : At i k .idle ⟨.seq :: as, rs, acks, bs, x, w, e⟩ s) (hrow : rowAt (seqOf i) k = some row)
    (hop : row.op = .stop) : ∃ t, step s = .next t ∧ t.seq.prim = .stop ∧
      At i k .completed ⟨as, rs, acks, bs, x, w, { request e .none with stopReq := true }⟩ t := by
  have hu := at_takeTurn h
  refine ⟨_, step_at_issue h hrow, ?_⟩
  rw [hop, issue_stop]
  exact ⟨rfl, at_move hu rfl rfl rfl rfl hu.wsub (by cases hu.scene; rfl)⟩

/-- The primitive that receives a byte and answers it with a policy. -/
def receptionOp : Policy → PrimOp
  | .ack => .rdAck
  | .nack => .rdNack

theorem at_reception {pol : Policy} (h : At i k .idle ⟨.seq :: as, rs, acks, bs, x, w, e⟩ s)
    (hrow : rowAt (seqOf i) k = some row) (hop : row.op = receptionOp pol) :
    ∃ t, step s = .next t ∧ t.seq.prim = (receptionOp pol).prim ∧
      At i k .issued ⟨as, rs, acks, bs, x, w, request e (receptionOp pol).prim.request⟩ t := by
  have hu := at_takeTurn h
  refine ⟨_, step_at_issue h hrow, ?_⟩
  rw [hop]
  cases pol with
  | ack =>
    rw [receptionOp, issue_rdAck]
    exact ⟨rfl, at_move hu rfl rfl rfl rfl hu.wsub (by cases hu.scene; rfl)⟩
  | nack =>
    rw [receptionOp, issue_rdNack]
    exact ⟨rfl, at_move hu rfl rfl rfl rfl hu.wsub (by cases hu.scene; rfl)⟩

/-- The two issue steps of a WRITE. -/
theorem at_write {b : Byte} (h : At i k .idle ⟨.seq :: .seq :: as, rs, acks, bs, x, w, e⟩ s)
    (hrow : rowAt (seqOf i) k = some row) (hop : row.op = .write b) :
    ∃ t, Steps 2 s t ∧ t.seq.prim = .write ∧
      At i k .issued ⟨as, rs, acks, bs, x, w, { request e .tx with data := b }⟩ t := by
  have hu := at_takeTurn h
  have hload : step s = .next (Claims.afterLoad b (takeTurn s)) := by
    rw [step_at_issue h hrow, hop, issue_write_load b hu.wsub]
  have hrun : running (Claims.afterLoad b (takeTurn s)) = some i := (running_of_operands rfl rfl).trans hu.run
  have hsched' := at_sched hu
  have hsched : (Claims.afterLoad b (takeTurn s)).inp.sched = .seq :: as := hsched'
  have htrigger : step (Claims.afterLoad b (takeTurn s)) =
      .next (Claims.afterTrigger (takeTurn (Claims.afterLoad b (takeTurn s)))) := by
    rw [step_seq_running hrun hsched, exec_issue (row := row) (running_isCommand h.run) ?_ ?_ ?_, hop,
      issue_write_trigger b (by rw [takeTurn_seq]; rfl)]
    · rw [takeTurn_port]; exact (running_busy hrun).1
    · rw [takeTurn_seq]; exact hu.phase
    · rw [takeTurn_seq, ← hrow, ← hu.step]; rfl
  refine ⟨_, steps_cons hload (steps_cons htrigger rfl), ?_⟩
  rw [takeTurn_cons hsched]
  obtain ⟨-, rfl, rfl, rfl, rfl, rfl, rfl⟩ := sceneOf_eq_iff.mp hu.scene
  exact ⟨rfl, at_move hu rfl rfl rfl rfl rfl rfl⟩

theorem at_poll (h : At i k .issued ⟨.seq :: as, rs, acks, bs, x, w, e⟩ s) (hdone : e.done = true) :
    ∃ t, step s = .next t ∧ t.seq.prim = s.seq.prim ∧ At i k .completed ⟨as, rs, acks, bs, x, w, e⟩ t := by
  have hu := at_takeTurn h
  have hdone' : (takeTurn s).eng.done = true := by rw [show (takeTurn s).eng = e from congrArg Scene.eng hu.scene, hdone]
  refine ⟨poll (takeTurn s), ?_, ?_, ?_⟩
  · rw [step_seq_running h.run (at_sched h), Waits.exec_eq ⟨running_isCommand h.run, (running_busy hu.run).1, hu.phase⟩]
  · rw [poll_seq, (poll_frame _ _).1, takeTurn_seq]
  · rw [poll_eq, hdone', poll_true]
    exact at_move hu rfl rfl rfl rfl hu.wsub (by cases hu.scene; rfl)

/-- The latches after a row is retired with an outcome and a byte to latch. -/
def recorded (x : Seqr) (row : SeqRow) (o : StepOutcome) (b : Byte) : Seqr :=
  (x.reportIf row.slot o).latchIf row.latch b

theorem latchesOf_reportIf (q : Seqr) (slot : Option (Fin 5)) (o : StepOutcome) :
    latchesOf (q.reportIf slot o) = (latchesOf q).reportIf slot o := by
  match slot with
  | none | some 0 | some 1 | some 2 | some 3 | some 4 => rfl

theorem latchesOf_latchIf (q : Seqr) (l : Option Latch) (b : Byte) :
    latchesOf (q.latchIf l b) = (latchesOf q).latchIf l b := by
  match l with
  | none | some .hi | some .lo => rfl

theorem latchesOf_retire (row : SeqRow) (s : State) :
    latchesOf (retire row s).seq = recorded (latchesOf s.seq) row (outcomeOf s) s.eng.data := by
  rw [recorded, ← latchesOf_reportIf, ← latchesOf_latchIf, retire_seq]
  rfl

theorem at_retire (h : At i k .completed ⟨.seq :: as, rs, acks, bs, x, w, e⟩ s) (hrow : rowAt (seqOf i) k = some row)
    {o : StepOutcome} (ho : outcomeOf s = o) :
    ∃ t, step s = .next t ∧ At i (k + 1) .idle ⟨as, rs, acks, bs, recorded x row o e.data, w, e⟩ t := by
  have hu := at_takeTurn h
  have ho' : outcomeOf (takeTurn s) = o := by rw [← ho, outcomeOf, outcomeOf, takeTurn_seq, takeTurn_eng]
  refine ⟨retire row (takeTurn s), ?_, ?_⟩
  · rw [step_seq_running h.run (at_sched h),
      exec_retire (running_isCommand h.run) (running_busy hu.run).1 (.inl hu.phase), hu.step, retireRow_of_rowAt hrow]
  · refine ⟨(running_of_operands (retire_port _ _) (retire_operands _ _)).trans hu.run, ?_, rfl, ?_, ?_⟩
    · rw [retire_stepIdx, hu.step]
    · rw [retire_wsub, hu.wsub]
    · cases hu.scene
      rw [← ho', sceneOf, latchesOf_retire, retire_inp, retire_eng, retire_hist]

/-- A wait that finds DONE is polled once and retired. -/
theorem at_served (h : At i k .issued ⟨.seq :: .seq :: as, rs, acks, bs, x, w, e⟩ s) (hdone : e.done = true)
    (hrow : rowAt (seqOf i) k = some row) : ∃ t, Steps 2 s t ∧
      At i (k + 1) .idle ⟨as, rs, acks, bs,
        recorded x row (if s.seq.prim = .write ∧ e.acked = false then .nack else .ok) e.data, w, e⟩ t := by
  obtain ⟨u, hpoll, hprim, hu⟩ := at_poll h hdone
  have ho : outcomeOf u = if s.seq.prim = .write ∧ e.acked = false then .nack else .ok := by
    have heng : u.eng = e := congrArg Scene.eng hu.scene
    rw [outcomeOf, looksAtAck, hu.phase, hprim, statAcked_statWord, heng]
    cases s.seq.prim <;> cases e.acked <;> rfl
  obtain ⟨t, hretire, ht⟩ := at_retire hu hrow ho
  exact ⟨t, steps_cons hpoll (steps_cons hretire rfl), ht⟩

/-! ### A turn of ENG -/

theorem drawReady_cons {u : State} (h : u.inp.readyIn = true :: rs) :
    drawReady u = (true, { u with inp := { u.inp with readyIn := rs } }) := by
  simp [drawReady, h]

theorem drawAck_drawReady {u : State} {a : Bool} (b : Byte) (hready : u.inp.readyIn = true :: rs)
    (hack : u.inp.ackIn = a :: acks) : drawAck b (drawReady u).2 =
      (a, { u with inp := { u.inp with readyIn := rs, ackIn := acks } }) := by
  simp [drawReady, hready, drawAck, hack]

theorem drawByte_drawReady {u : State} {b : Byte} (hready : u.inp.readyIn = true :: rs)
    (hbyte : u.inp.byteIn = b :: bs) : drawByte (drawReady u).2 =
      (b, { u with inp := { u.inp with readyIn := rs, byteIn := bs } }) := by
  simp [drawReady, hready, drawByte, hbyte]

theorem at_turn {a : Agent} (h : At i k p ⟨a :: as, rs, acks, bs, x, w, e⟩ s) : (takeTurn s).inp.turn = a := by
  rw [takeTurn_cons (at_sched h)]

theorem at_performStart (h : At i k p ⟨.eng :: as, true :: rs, acks, bs, x, w, e⟩ s) (hen : e.en = true)
    (hstop : e.stopReq = false) (hpend : e.pend = .start) : ∃ t, step s = .next t ∧ t.seq = s.seq ∧
      At i k p ⟨as, rs, acks, bs, x, w ++ [if e.isOpen then .sr else .s],
        { e with isOpen := true, pend := .none, done := true, sdaOut := false, sclOut := false }⟩ t := by
  have hu := at_takeTurn h
  obtain ⟨rfl, hready, rfl, rfl, rfl, rfl, rfl⟩ := sceneOf_eq_iff.mp hu.scene
  have hstep : step s = exec (.eStart false) (takeTurn s) := by
    rw [step_eng (at_sched h), fetchEng, if_neg (ne_true_of_eq_false hstop), hpend]
    rfl
  have hexec := startPerformed false _ (at_turn h) hen hstop hpend (congrArg Prod.fst (drawReady_cons hready))
  refine ⟨_, hstep.trans hexec, takeTurn_seq s, at_of_seq hu rfl rfl ?_⟩
  rw [drawReady_cons hready]
  rfl

/-- A requested stop on an open bus. -/
theorem at_performStop (h : At i k p ⟨.eng :: as, true :: rs, acks, bs, x, w, e⟩ s) (hen : e.en = true)
    (hstop : e.stopReq = true) (hopen : e.isOpen = true) : ∃ t, step s = .next t ∧ t.seq = s.seq ∧
      At i k p ⟨as, rs, acks, bs, x, w ++ [.p],
        { e with isOpen := false, stopReq := false, sdaOut := true, sclOut := true }⟩ t := by
  have hu := at_takeTurn h
  obtain ⟨rfl, hready, rfl, rfl, rfl, rfl, rfl⟩ := sceneOf_eq_iff.mp hu.scene
  have hstep : step s = exec (.eStop false) (takeTurn s) := by
    rw [step_eng (at_sched h), fetchEng, if_pos hstop]
    rfl
  have hexec := (stopPerformed false _ (at_turn h) hen hstop (congrArg Prod.fst (drawReady_cons hready))).1 hopen
  refine ⟨_, hstep.trans hexec, takeTurn_seq s, at_of_seq hu rfl rfl ?_⟩
  rw [drawReady_cons hready]
  rfl

theorem at_performTx {a : Bool} (h : At i k p ⟨.eng :: as, true :: rs, a :: acks, bs, x, w, e⟩ s) (hen : e.en = true)
    (hstop : e.stopReq = false) (hpend : e.pend = .tx) (hopen : e.isOpen = true) :
    ∃ t, step s = .next t ∧ t.seq = s.seq ∧ At i k p ⟨as, rs, acks, bs, x, w ++ [.tx e.data a],
      { e with acked := a, pend := .none, done := true, sdaOut := true, sclOut := false }⟩ t := by
  have hu := at_takeTurn h
  obtain ⟨rfl, hready, hack, rfl, rfl, rfl, rfl⟩ := sceneOf_eq_iff.mp hu.scene
  have hstep : step s = exec (.eTx false) (takeTurn s) := by
    rw [step_eng (at_sched h), fetchEng, if_neg (ne_true_of_eq_false hstop), hpend]
    rfl
  obtain ⟨a', t, ha, hexec, heng, hhist, hseq, hport, -, hinp⟩ :=
    transmitPerformed false _ (at_turn h) hen hstop hpend hopen (congrArg Prod.fst (drawReady_cons hready))
  rw [drawAck_drawReady _ hready hack] at ha hinp
  subst ha
  refine ⟨t, hstep.trans hexec, hseq.trans (takeTurn_seq s), at_of_seq hu hseq hport ?_⟩
  rw [sceneOf, heng, hhist, hinp, hseq]

theorem at_performRx {b : Byte} {pol : Policy} (h : At i k p ⟨.eng :: as, true :: rs, acks, b :: bs, x, w, e⟩ s)
    (hen : e.en = true) (hstop : e.stopReq = false) (hpend : e.pend = (receptionOp pol).prim.request)
    (hopen : e.isOpen = true) : ∃ t, step s = .next t ∧ t.seq = s.seq ∧
      At i k p ⟨as, rs, acks, bs, x, w ++ [.rx b pol],
        { e with data := b, pend := .none, done := true, sdaOut := policyLevel pol, sclOut := false }⟩ t := by
  have hu := at_takeTurn h
  obtain ⟨rfl, hready, rfl, hbyte, rfl, rfl, rfl⟩ := sceneOf_eq_iff.mp hu.scene
  have hready' : (drawReady (takeTurn s)).1 = true := congrArg Prod.fst (drawReady_cons hready)
  have hstep : step s = .next (performRx pol (drawReady (takeTurn s)).2) := by
    rw [step_eng (at_sched h), fetchEng, if_neg (ne_true_of_eq_false hstop), hpend]
    cases pol with
    | ack => exact congrArg _ (engineOp_perform (at_turn h) (by simp only [canRxAck, hen, hstop, hpend, hopen]; rfl) hready')
    | nack => exact congrArg _ (engineOp_perform (at_turn h) (by simp only [canRxNack, hen, hstop, hpend, hopen]; rfl) hready')
  obtain ⟨heng, hhist, hseq, hport, -, hinp⟩ := performRx_drawReady pol (takeTurn s)
  refine ⟨_, hstep, hseq.trans (takeTurn_seq s), at_of_seq hu hseq hport ?_⟩
  rw [sceneOf, heng, hhist, hinp, hseq, drawByte_drawReady hready hbyte]

/-! ### A primitive served at once -/

theorem prompt_start (h : At i k .idle ⟨Claims.promptPrim ++ as, true :: rs, acks, bs, x, w, e⟩ s)
    (hrow : rowAt (seqOf i) k = some row) (hop : row.op = .start) (hen : e.en = true) (hstop : e.stopReq = false) :
    ∃ t, Steps 4 s t ∧ At i (k + 1) .idle ⟨as, rs, acks, bs, recorded x row .ok e.data,
      w ++ [if e.isOpen then .sr else .s],
      { e with isOpen := true, pend := .none, done := true, sdaOut := false, sclOut := false }⟩ t := by
  obtain ⟨s₁, hissue, hprim, h₁⟩ := at_start h hrow hop
  obtain ⟨s₂, hperform, hseq, h₂⟩ := at_performStart h₁ hen hstop rfl
  obtain ⟨t, hserved, ht⟩ := at_served h₂ rfl hrow
  rw [hseq, hprim] at ht
  exact ⟨t, steps_cons hissue (steps_cons hperform hserved), ht⟩

theorem prompt_write {b : Byte} {a : Bool}
    (h : At i k .idle ⟨Claims.promptWrite ++ as, true :: rs, a :: acks, bs, x, w, e⟩ s)
    (hrow : rowAt (seqOf i) k = some row) (hop : row.op = .write b) (hen : e.en = true) (hstop : e.stopReq = false)
    (hopen : e.isOpen = true) :
    ∃ t, Steps 5 s t ∧ At i (k + 1) .idle ⟨as, rs, acks, bs, recorded x row (if a then .ok else .nack) b,
      w ++ [.tx b a],
      { e with data := b, acked := a, pend := .none, done := true, sdaOut := true, sclOut := false }⟩ t := by
  obtain ⟨s₁, hissue, hprim, h₁⟩ := at_write h hrow hop
  obtain ⟨s₂, hperform, hseq, h₂⟩ := at_performTx h₁ hen hstop rfl hopen
  obtain ⟨t, hserved, ht⟩ := at_served h₂ rfl hrow
  rw [hseq, hprim] at ht
  refine ⟨t, steps_trans hissue (steps_cons hperform hserved), ?_⟩
  cases a <;> exact ht

theorem prompt_reception {b : Byte} {pol : Policy}
    (h : At i k .idle ⟨Claims.promptPrim ++ as, true :: rs, acks, b :: bs, x, w, e⟩ s)
    (hrow : rowAt (seqOf i) k = some row) (hop : row.op = receptionOp pol) (hen : e.en = true) (hstop : e.stopReq = false)
    (hopen : e.isOpen = true) :
    ∃ t, Steps 4 s t ∧ At i (k + 1) .idle ⟨as, rs, acks, bs, recorded x row .ok b, w ++ [.rx b pol],
      { e with data := b, pend := .none, done := true, sdaOut := policyLevel pol, sclOut := false }⟩ t := by
  obtain ⟨s₁, hissue, hprim, h₁⟩ := at_reception h hrow hop
  obtain ⟨s₂, hperform, hseq, h₂⟩ := at_performRx h₁ hen hstop rfl hopen
  obtain ⟨t, hserved, ht⟩ := at_served h₂ rfl hrow
  rw [hseq, hprim] at ht
  refine ⟨t, steps_cons hissue (steps_cons hperform hserved), ?_⟩
  cases pol <;> exact ht

theorem prompt_stop (h : At i k .idle ⟨Claims.promptStop ++ as, true :: rs, acks, bs, x, w, e⟩ s)
    (hrow : rowAt (seqOf i) k = some row) (hop : row.op = .stop) (hen : e.en = true) (hopen : e.isOpen = true) :
    ∃ t, Steps 3 s t ∧ At i (k + 1) .idle ⟨as, rs, acks, bs, recorded x row .ok e.data, w ++ [.p],
      { e with isOpen := false, stopReq := false, pend := .none, done := false, sdaOut := true, sclOut := true }⟩ t := by
  obtain ⟨s₁, hissue, hprim, h₁⟩ := at_stop h hrow hop
  obtain ⟨s₂, hperform, hseq, h₂⟩ := at_performStop h₁ hen rfl hopen
  have ho : outcomeOf s₂ = .ok := by
    rw [outcomeOf, looksAtAck, hseq, hprim]
    rfl
  obtain ⟨t, hretire, ht⟩ := at_retire h₂ hrow ho
  exact ⟨t, steps_cons hissue (steps_cons hperform (steps_cons hretire rfl)), ht⟩

/-- The respond step at the end of the sequence. -/
theorem prompt_respond (h : At i k .idle ⟨.seq :: as, rs, acks, bs, x, w, e⟩ s) (hend : rowAt (seqOf i) k = none) :
    ∃ t, Steps 1 s t ∧ t.hist.wire = w ∧ t.eng = e ∧ latchesOf t.seq = x ∧ t.port =
      { busy := false, rsp := Claims.response false x.o0 x.o1 x.o2 x.o3 x.o4 (Claims.resultData i x) } := by
  have hu := at_takeTurn h
  obtain ⟨-, -, -, -, rfl, rfl, rfl⟩ := sceneOf_eq_iff.mp hu.scene
  have hcmd := running_isCommand h.run
  have hstep : step s = .next (respond (dataOf i) (takeTurn s)) := by
    rw [step_seq_running h.run (at_sched h), exec_command hcmd,
      seqStep_respond (running_busy hu.run).1 hu.phase (by rw [hu.step, hend])]
  refine ⟨_, steps_cons hstep rfl, rfl, rfl, rfl, ?_⟩
  have hdata : Claims.resultData i (latchesOf (takeTurn s).seq) = Claims.resultData i (takeTurn s).seq := by
    cases i <;> rfl
  rw [hdata, respond, deliver_port, rspWord_eq_response, dataOf_eq_resultData hcmd]
  rfl

end

/-- A command just accepted stands at its first step. -/
theorem at_of_justAccepted {i : Instr} {c : Scene} {s : State} (h : justAccepted i s) (hscene : sceneOf s = c) :
    At i 0 .idle c s := by
  obtain ⟨hrun, hphase, hstep, hsub⟩ := h
  exact ⟨hrun, hstep, hphase, hsub, hscene⟩

end Sys2Proof.Proofs
end

section
/-! Proofs about whole commands served at once (41_transport_primitives.md section 2, 42_register_access.md R172 to R174):
each is the chain of the rules for the primitives of its sequence. -/

namespace Sys2Proof.Proofs

open Sys2Proof Sys2Proof.Machine

/-- Settles O41: START, three bytes, STOP. -/
theorem wregWholePrompt : Obligations.WregWholePrompt := by
  unfold Obligations.WregWholePrompt
  intro a r v x y z s as rs acks haccepted h4 hen hstop hsched hready hack
  have h₀ : At (.wreg a r v) 0 .idle ⟨Claims.promptPrim ++ (Claims.promptWrite ++ (Claims.promptWrite ++
      (Claims.promptWrite ++ (Claims.promptStop ++ (.seq :: as))))), true :: true :: true :: true :: true :: rs,
      x :: y :: z :: acks, s.inp.byteIn, latchesOf s.seq, s.hist.wire, s.eng⟩ s :=
    at_of_justAccepted haccepted (by simp only [sceneOf, hsched, hready, hack, List.append_assoc]; rfl)
  obtain ⟨s₁, hrun₁, h₁⟩ := prompt_start h₀ rfl rfl hen hstop
  obtain ⟨s₂, hrun₂, h₂⟩ := prompt_write h₁ rfl (congrArg _ (addrByte_eq_append a _)) hen hstop rfl
  obtain ⟨s₃, hrun₃, h₃⟩ := prompt_write h₂ rfl rfl hen hstop rfl
  obtain ⟨s₄, hrun₄, h₄⟩ := prompt_write h₃ rfl rfl hen hstop rfl
  obtain ⟨s₅, hrun₅, h₅⟩ := prompt_stop h₄ rfl rfl hen rfl
  obtain ⟨t, hrun₆, hwire, heng, -, hport⟩ := prompt_respond h₅ rfl
  refine ⟨t, steps_trans (steps_trans (steps_trans (steps_trans (steps_trans hrun₁ hrun₂) hrun₃) hrun₄) hrun₅) hrun₆,
    ?_, ?_, ?_, ?_⟩
  · rw [hwire]
    simp only [List.append_assoc]
    rfl
  · rw [hport]
  · rw [hport]
    exact congrArg (Claims.response false .ok _ _ _ · 0#16) h4
  · rw [heng]
    exact ⟨rfl, rfl, rfl, rfl, rfl⟩

/-- Settles O42: START, two bytes, START again, the address byte for reading, two receptions, STOP. -/
theorem rdwWholePrompt : Obligations.RdwWholePrompt := by
  unfold Obligations.RdwWholePrompt
  intro a r x y z hi lo s as rs acks bs haccepted hen hstop hsched hready hack hbyte
  have h₀ : At (.rdw a r) 0 .idle ⟨Claims.promptPrim ++ (Claims.promptWrite ++ (Claims.promptWrite ++
      (Claims.promptPrim ++ (Claims.promptWrite ++ (Claims.promptPrim ++ (Claims.promptPrim ++ (Claims.promptStop ++
      (.seq :: as)))))))), true :: true :: true :: true :: true :: true :: true :: true :: rs,
      x :: y :: z :: acks, hi :: lo :: bs, latchesOf s.seq, s.hist.wire, s.eng⟩ s :=
    at_of_justAccepted haccepted (by simp only [sceneOf, hsched, hready, hack, hbyte, List.append_assoc]; rfl)
  obtain ⟨s₁, hrun₁, h₁⟩ := prompt_start h₀ rfl rfl hen hstop
  obtain ⟨s₂, hrun₂, h₂⟩ := prompt_write h₁ rfl (congrArg _ (addrByte_eq_append a _)) hen hstop rfl
  obtain ⟨s₃, hrun₃, h₃⟩ := prompt_write h₂ rfl rfl hen hstop rfl
  obtain ⟨s₄, hrun₄, h₄⟩ := prompt_start h₃ rfl rfl hen hstop
  obtain ⟨s₅, hrun₅, h₅⟩ := prompt_write h₄ rfl (congrArg _ (addrByte_eq_append a _)) hen hstop rfl
  obtain ⟨s₆, hrun₆, h₆⟩ := prompt_reception (pol := .ack) h₅ rfl rfl hen hstop rfl
  obtain ⟨s₇, hrun₇, h₇⟩ := prompt_reception (pol := .nack) h₆ rfl rfl hen hstop rfl
  obtain ⟨s₈, hrun₈, h₈⟩ := prompt_stop h₇ rfl rfl hen rfl
  obtain ⟨t, hrun₉, hwire, heng, -, hport⟩ := prompt_respond h₈ rfl
  refine ⟨t, steps_trans (steps_trans (steps_trans (steps_trans (steps_trans (steps_trans (steps_trans (steps_trans
    hrun₁ hrun₂) hrun₃) hrun₄) hrun₅) hrun₆) hrun₇) hrun₈) hrun₉, ?_, ?_, ?_, ?_⟩
  · rw [hwire]
    simp only [List.append_assoc]
    rfl
  · rw [hport]
  · rw [hport]
    rfl
  · rw [heng]

/-- Settles O43: START and the address byte, and no STOP. -/
theorem probeWholePrompt : Obligations.ProbeWholePrompt := by
  unfold Obligations.ProbeWholePrompt
  intro a x s as rs acks haccepted h2 h3 h4 hen hstop hsched hready hack
  have h₀ : At (.probe a) 0 .idle ⟨Claims.promptPrim ++ (Claims.promptWrite ++ (.seq :: as)), true :: true :: rs,
      x :: acks, s.inp.byteIn, latchesOf s.seq, s.hist.wire, s.eng⟩ s :=
    at_of_justAccepted haccepted (by simp only [sceneOf, hsched, hready, hack, List.append_assoc]; rfl)
  obtain ⟨s₁, hrun₁, h₁⟩ := prompt_start h₀ rfl rfl hen hstop
  obtain ⟨s₂, hrun₂, h₂⟩ := prompt_write h₁ rfl (congrArg _ (addrByte_eq_append a _)) hen hstop rfl
  obtain ⟨t, hrun₃, hwire, heng, -, hport⟩ := prompt_respond h₂ rfl
  refine ⟨t, steps_trans (steps_trans hrun₁ hrun₂) hrun₃, ?_, ?_, ?_⟩
  · rw [hwire]
    simp only [List.append_assoc]
    rfl
  · rw [hport]
    change Port.mk false (Claims.response false .ok (if x then .ok else .nack) s.seq.o2 s.seq.o3 s.seq.o4
      (if StepOutcome.ok = .ok ∧ (if x then StepOutcome.ok else .nack) = .ok then 1#16 else 0#16)) = _
    rw [h2, h3, h4]
    cases x <;> rfl
  · rw [heng]
    exact ⟨rfl, hstop, rfl⟩

/-- The response word of a reception is its slots and the byte. -/
theorem response_byte (b : Byte) :
    Claims.response false .ok .notRun .notRun .notRun .notRun (0#8 ++ b) = 0x03FC00#24 ++ b := by
  revert b
  decide

/-- A reception as a command of its own (R149, R150): its event on the wire, and the byte in HI and in the response. -/
theorem reception_whole {i : Instr} {pol : Policy} {b : Byte} {s : State} {as : List Agent} {rs : List Bool}
    {bs : List Byte} (haccepted : justAccepted i s) (hseq : seqOf i = seqReception (receptionOp pol))
    (hdata : ∀ q, Claims.resultData i q = 0#8 ++ q.hi) (h1 : s.seq.o1 = .notRun) (h2 : s.seq.o2 = .notRun)
    (h3 : s.seq.o3 = .notRun) (h4 : s.seq.o4 = .notRun) (hen : s.eng.en = true) (hstop : s.eng.stopReq = false)
    (hopen : s.eng.isOpen = true) (hready : s.inp.readyIn = true :: rs)
    (hsched : s.inp.sched = Claims.promptPrim ++ [.seq] ++ as) (hbyte : s.inp.byteIn = b :: bs) :
    ∃ t, Steps 5 s t ∧ t.hist.wire = s.hist.wire ++ [.rx b pol] ∧ t.seq.hi = b ∧
      t.port = { busy := false, rsp := 0x03FC00#24 ++ b } := by
  have h₀ : At i 0 .idle ⟨Claims.promptPrim ++ (.seq :: as), true :: rs, s.inp.ackIn, b :: bs, latchesOf s.seq,
      s.hist.wire, s.eng⟩ s :=
    at_of_justAccepted haccepted (by simp only [sceneOf, hsched, hready, hbyte, List.append_assoc]; rfl)
  obtain ⟨s₁, hrun₁, h₁⟩ := prompt_reception (row := ⟨receptionOp pol, some 0, some .hi⟩) h₀ (by rw [hseq]; rfl) rfl
    hen hstop hopen
  obtain ⟨t, hrun₂, hwire, -, hlatches, hport⟩ := prompt_respond h₁ (by rw [hseq]; rfl)
  refine ⟨t, steps_trans hrun₁ hrun₂, hwire, congrArg Seqr.hi hlatches, ?_⟩
  rw [hport, hdata]
  change Port.mk false (Claims.response false .ok s.seq.o1 s.seq.o2 s.seq.o3 s.seq.o4 (0#8 ++ b)) = _
  rw [h1, h2, h3, h4, response_byte]

/-- Settles O39: each command is its one primitive and a response. -/
theorem primitivesWholePrompt : Obligations.PrimitivesWholePrompt := by
  unfold Obligations.PrimitivesWholePrompt
  intro s as rs h1 h2 h3 h4 hen hstop hready
  refine ⟨?start, ?write, ?reception⟩
  case start =>
    intro haccepted hsched
    have h₀ : At .start 0 .idle ⟨Claims.promptPrim ++ (.seq :: as), true :: rs, s.inp.ackIn, s.inp.byteIn,
        latchesOf s.seq, s.hist.wire, s.eng⟩ s :=
      at_of_justAccepted haccepted (by simp only [sceneOf, hsched, hready, List.append_assoc]; rfl)
    obtain ⟨s₁, hrun₁, h₁⟩ := prompt_start h₀ rfl rfl hen hstop
    obtain ⟨t, hrun₂, hwire, heng, -, hport⟩ := prompt_respond h₁ rfl
    refine ⟨t, steps_trans hrun₁ hrun₂, hwire, by rw [heng], ?_⟩
    rw [hport]
    change Port.mk false (Claims.response false .ok s.seq.o1 s.seq.o2 s.seq.o3 s.seq.o4 0#16) = _
    rw [h1, h2, h3, h4]
    rfl
  case write =>
    intro b x acks haccepted hopen hsched hack
    have h₀ : At (.write b) 0 .idle ⟨Claims.promptWrite ++ (.seq :: as), true :: rs, x :: acks, s.inp.byteIn,
        latchesOf s.seq, s.hist.wire, s.eng⟩ s :=
      at_of_justAccepted haccepted (by simp only [sceneOf, hsched, hready, hack, List.append_assoc]; rfl)
    obtain ⟨s₁, hrun₁, h₁⟩ := prompt_write h₀ rfl rfl hen hstop hopen
    obtain ⟨t, hrun₂, hwire, heng, -, hport⟩ := prompt_respond h₁ rfl
    refine ⟨t, steps_trans hrun₁ hrun₂, hwire, by rw [heng]; exact hopen, ?_⟩
    rw [hport]
    change Port.mk false (Claims.response false (if x then .ok else .nack) s.seq.o1 s.seq.o2 s.seq.o3 s.seq.o4 0#16) = _
    rw [h1, h2, h3, h4]
    cases x <;> rfl
  case reception =>
    intro b bs hopen hsched hbyte
    exact ⟨fun haccepted => reception_whole (pol := .ack) haccepted rfl (fun _ => rfl) h1 h2 h3 h4 hen hstop hopen
        hready hsched hbyte,
      fun haccepted => reception_whole (pol := .nack) haccepted rfl (fun _ => rfl) h1 h2 h3 h4 hen hstop hopen
        hready hsched hbyte⟩

end Sys2Proof.Proofs
end
